-- ==== Sys2Proof/Word.lean ====
section
/-! DEFINITION. The word types of the bit engine (00_scope.md R11, 92_eei_decisions.md D4). -/

namespace Sys2Proof

/-- Frame words, FIFO entries, masks and the accumulator: "Every word value is an unsigned natural
below 2^WORD_W" (R11). WORD_W is a parameter (R7), so a word is the natural itself, and `narrow`
cuts a result to the width (log 1). -/
abbrev Word := Nat

/-- `n` as a word of `w` bits: bits `w − 1 : 0` of it (R11). -/
def narrow (w n : Nat) : Word := n % 2 ^ w

/-- A 16-bit field of a host word: ARG (R88), STATUS and VALUE (R91). -/
abbrev HostField := BitVec 16

/-- A format code as BEGIN carries it in ARG: 16 bits (R80, R81, R94). The register FMT that keeps it
is a `Word` (R26; log 1). -/
abbrev FormatCode := BitVec 16

/-- A host byte, the operand of WRITE (R64, R94). -/
abbrev HostByte := BitVec 8

/-- A pin level or a logical line level: `false` is 0, `true` is 1 (R14). -/
abbrev Level := Bool

end Sys2Proof
end

