-- ==== Sys2Proof/Machine/Types.lean ====
section
/-! DEFINITION. The data the block is made of: formats, the timing record, micro-operations, pins,
commands, turns, status codes and receive outcomes. Types only: every function on them stands in
Decode.lean or in a file of Machine/ of its own. -/

namespace Sys2Proof

/-! ## Formats (10_state.md R26, 30_encoding.md R81) -/

/-- `dataBits` ∈ {5, 6, 7, 8} (R26). -/
inductive DataBits where
  | five | six | seven | eight
deriving DecidableEq, Repr, Inhabited

/-- `parityMode`, in the source's order (R26, R81). -/
inductive ParityMode where
  | none | odd | even | mark | space
deriving DecidableEq, Repr, Inhabited

/-- `stopBits` ∈ {1, 2} (R26). 1.5 stop bits do not exist here (R5(g)). -/
inductive StopBits where
  | one | two
deriving DecidableEq, Repr, Inhabited

/-- A FormatSpec (R26). -/
structure FormatSpec where
  dataBits   : DataBits
  parityMode : ParityMode
  stopBits   : StopBits
deriving DecidableEq, Repr, Inhabited

/-- The timing record RESOLVE gives (R110; widths R29 to R32, `schedLen` R34). -/
structure Timing where
  fmt            : FormatSpec
  bitsToSend     : BitVec 4
  txShiftCount   : BitVec 4
  dataBitsMask   : Word
  parityBitMask  : Word
  parityMode     : ParityMode
  stopBitPattern : Word
  shiftInBit     : Word
  schedLen       : Nat
deriving DecidableEq, Repr, Inhabited

/-- What a BEGIN that succeeds writes (R26, R28, R33): FMT (`code`, a word of WORD_W bits), BAUD, the
two intervals in microseconds, and the timing record, which holds `fmt`. -/
structure PortConfig where
  code           : Word
  baud           : Rat
  baudInterval   : Rat
  sampleInterval : Rat
  timing         : Timing
deriving DecidableEq, Repr

/-! ## Parameters (00_scope.md R7) -/

/-- `EDGE_LATCH` (R7, R46; D14). -/
inductive EdgeLatch where
  | noLatch | mayLatch
deriving DecidableEq, Repr

/-- What `BAUD_OK` asks beyond `baud > 0` (R7, R121; D7, 90_conflicts.md C6; log 8), as data: nothing
(the default), bounds, a list of rates, any combination of these, or a predicate of the platform's
that nothing constrains. -/
inductive BaudRule where
  | anyPositive
  | atLeast (minimum : Rat)
  | atMost (maximum : Rat)
  | oneOf (bauds : List Rat)
  | both (r₁ r₂ : BaudRule)
  | either (r₁ r₂ : BaudRule)
  | except (r : BaudRule)
  | platform
deriving DecidableEq, Repr

/-- `FORMAT_DECODE` (R7, R82; D1; log 9): the field layout of R81 (the default), or a table of
(code, format) rows that replaces it, the first row of a code counting. -/
inductive FormatMap where
  | layout
  | rows (table : List (FormatCode × FormatSpec))
deriving DecidableEq, Repr

/-- The parameters the source leaves to the implementation (R7). -/
structure Params where
  /-- `WORD_W` -/
  wordW       : Nat
  txCap       : Nat
  rxCap       : Nat
  stopTicks   : Nat
  ctsAsserted : Level
  edgeLatch   : EdgeLatch
  baudRule    : BaudRule
  formatMap   : FormatMap
deriving DecidableEq, Repr

/-! ## Micro-operations, pins, timers -/

/-- The seven receive micro-operations (R86). -/
inductive MicroOp where
  | startchk | clear | vsample | vconfirm | shiftin | stopchk | final
deriving DecidableEq, Repr

/-- The output pin: driven to a level, or `Z` (R48). -/
inductive TxPin where
  | driven (level : Level)
  | released
deriving DecidableEq, Repr

/-- The two timers (R15). -/
inductive Timer where
  | txt | rxt
deriving DecidableEq, Repr

/-! ## Commands, code words, turns -/

/-- A command the Host issues: the 32-bit word and its side operand, which only BEGIN reads
(R88; log 16). -/
structure HostCommand where
  word : BitVec 32
  baud : Rat
deriving DecidableEq, Repr

/-- An encoded instruction, by domain (R80): "A decoder knows the length of each from its domain
alone". -/
inductive CodeWord where
  | uop (code : BitVec 3)
  | event (code : BitVec 2)
  | host (command : HostCommand)
deriving DecidableEq, Repr

/-- Why a code word is rejected (R92, R249). -/
inductive DecodeError where
  /-- micro-operation code 111 (R191) -/
  | reservedMicroOp
  /-- event code 11 (R90) -/
  | reservedEvent
  /-- `HOP` 0x0 or 0xA to 0xF (R89) -/
  | reservedSelector
  /-- `RSV ≠ 0` (R88) -/
  | reservedBits
  /-- a non-zero must-be-zero `ARG` bit (R94) -/
  | nonZeroArgument
deriving DecidableEq, Repr

/-- One turn of one agent (R8, R9; log 12): the Host's next command, a timer or edge step named by
its event code (R90), or a move of the Environment (R49, R259). -/
inductive Turn where
  | host
  | event (code : BitVec 2)
  | line (level : Level)
  | cts (level : Level)
  | otherPort (active : Bool)
deriving DecidableEq, Repr, Inhabited

/-! ## Status codes and receive outcomes -/

/-- Host status codes (60_exceptions.md R241). -/
inductive Status where
  | ok | invalidFormat | invalidBaud | portBusy | inactive | empty | badCommand
deriving DecidableEq, Repr

/-- Receive abort causes (60_exceptions.md R242). -/
inductive AbortCause where
  | startNoise | voteMismatch | stopInvalid | finalStopInvalid
deriving DecidableEq, Repr

/-- An entry of the non-architectural `rxTrace` (10_state.md R54). -/
inductive RxOutcome where
  | pushed (word : Word)
  | dropped (word : Word)
  | aborted (cause : AbortCause) (index : Nat)
deriving DecidableEq, Repr

end Sys2Proof
end

