-- ==== Sys2Proof/Config.lean ====
section
/-! DEFINITION. The default parameters (00_scope.md R7) and the free values: opaque constants that
nothing constrains, so that a claim proved with one holds whatever it is. -/

namespace Sys2Proof

/-- The parameters at reset: R7's defaults, and 4 for the two capacities, to which R7 gives no
default (DESIGN CHOICE, log 2). -/
def Config.defaultParams : Params where
  wordW       := 16
  txCap       := 4
  rxCap       := 4
  stopTicks   := 2
  ctsAsserted := false
  edgeLatch   := .mayLatch
  baudRule    := .anyPositive
  formatMap   := .layout

/-- The `draw` of a bit (R16; R46 under `MayLatch`), applied to the draw counter (log 5). -/
opaque Config.freeBit : Nat → Bool

/-- The `draw` of a word (R56), applied to the draw counter and then cut to WORD_W bits (log 5,
log 6). -/
opaque Config.freeWord : Nat → Word

/-- Which agent steps next when State names none (R9, R252; log 12). -/
opaque Config.freeTurn : Nat → Turn

/-- What the timing record reads as while it is unset (⊥, R55; log 4). -/
opaque Config.unsetTiming : Timing

/-- What an entry of SCHED that no BEGIN has written reads as (⊥, R55; log 4). -/
opaque Config.unsetCode : Nat → BitVec 3

/-- VALUE of AVAIL and AVAILW for a count that 16 bits do not hold (R91; log 20). -/
opaque Config.wideCount : Nat → HostField

/-- The platform's own condition on a baud rate (R7 `BAUD_OK`; log 8). -/
opaque Config.platformBaudOk : Rat → Bool

end Sys2Proof
end

