-- ==== Sys2Proof/Syntax.lean ====
section
/-! DEFINITION. The instructions: one constructor per row of spec/opcode_table.json, with the
operands 30_encoding.md R94 gives it. -/

namespace Sys2Proof

/-- An instruction of the block: the seven micro-operations of the receive sequencer (R86), the
three steps of the timer and edge agents (R90), and the nine host commands (R89). -/
inductive Instr where
  | startchk
  | clear
  | vsample
  | vconfirm
  | shiftin
  | stopchk
  | final
  | txtick
  | rxtick
  | rxedge
  /-- BEGIN: `ARG` = the format code, and the side operand (R88, R94; log 16). -/
  | beginPort (code : FormatCode) (baud : Rat)
  /-- END: `ARG[0]` = RETAIN (R94). -/
  | endPort (retain : Bool)
  | attachfc
  /-- WRITE: `ARG[7:0]` = byte (R94). -/
  | write (byte : HostByte)
  | read
  | peek
  | avail
  | availw
  | flush
deriving DecidableEq, Repr

end Sys2Proof
end

