-- ==== Sys2Proof/WellFormed.lean ====
section
/-! DEFINITION. The checks on encodings and parameters. An `Instr` itself cannot be ill-formed: each
of its operand types holds exactly the values its field admits (R94), and every format code and
every baud is a legal operand of BEGIN, which answers the bad ones with a status (R243). -/

namespace Sys2Proof

/-- Every instruction of the syntax is well-formed; one line per constructor, so that a new one
must be judged. -/
def Instr.wf : Instr → Bool
  | .startchk => true
  | .clear => true
  | .vsample => true
  | .vconfirm => true
  | .shiftin => true
  | .stopchk => true
  | .final => true
  | .txtick => true
  | .rxtick => true
  | .rxedge => true
  | .beginPort _ _ => true
  | .endPort _ => true
  | .attachfc => true
  | .write _ => true
  | .read => true
  | .peek => true
  | .avail => true
  | .availw => true
  | .flush => true

/-- The parameters R7 allows: words of at least 11 bits, capacities of at least 1, and between 2 and
4 ticks for a stop bit (fewer leave no FINAL in the schedule, R97, and a bit has 4 ticks, R6;
log 10). -/
def Params.wf (p : Params) : Bool :=
  decide (11 ≤ p.wordW) && decide (1 ≤ p.txCap) && decide (1 ≤ p.rxCap) &&
    decide (2 ≤ p.stopTicks) && decide (p.stopTicks ≤ 4)

/-- The bits of a host word by selector that R94 and R88 ask to be 0: `RSV`, and the `ARG` bits the
command does not use. `none` is a reserved selector (R89). -/
def mustBeZero (hop : BitVec 4) : Option (BitVec 32) :=
  match hop.toNat with
  | 1 => some 0x0FFF0000#32
  | 2 => some 0x0FFFFFFE#32
  | 4 => some 0x0FFFFF00#32
  | 3 | 5 | 6 | 7 | 8 | 9 => some 0x0FFFFFFF#32
  | _ => none

/-- A code word that names an instruction (R92). -/
def CodeWord.wf : CodeWord → Bool
  | .uop code => code ≠ 7#3
  | .event code => code ≠ 3#2
  | .host c =>
    match mustBeZero (c.word.extractLsb' 28 4) with
    | some m => c.word &&& m == 0#32
    | none => false

end Sys2Proof
end

