-- ==== Sys2Proof/Decode.lean ====
section
/-! DEFINITION. The decoder and the encoder of 30_encoding.md: format codes (R81), micro-operation
codes (R86), host words (R88, R89, R94) and event codes (R90). -/

namespace Sys2Proof

/-! ## Format codes -/

/-- `dataBits` as a number (R26). -/
def DataBits.count : DataBits → Nat
  | .five => 5
  | .six => 6
  | .seven => 7
  | .eight => 8

/-- `stopBits` as a number (R26). -/
def StopBits.count : StopBits → Nat
  | .one => 1
  | .two => 2

/-- `DB`: `dataBits = DB + 5` (R81). -/
def decodeDataBits (db : BitVec 2) : DataBits :=
  match db.toNat with
  | 0 => .five
  | 1 => .six
  | 2 => .seven
  | _ => .eight

/-- `PAR` (R81): 101 to 111 are invalid. -/
def decodeParity (par : BitVec 3) : Option ParityMode :=
  match par.toNat with
  | 0 => some .none
  | 1 => some .odd
  | 2 => some .even
  | 3 => some .mark
  | 4 => some .space
  | _ => none

/-- `SB`: `stopBits = SB + 1` (R81). -/
def decodeStopBits (sb : Bool) : StopBits := if sb then .two else .one

/-- `FORMAT_DECODE` with the field layout of R81 (R82). -/
def decodeFormat (code : FormatCode) : Option FormatSpec :=
  if code.extractLsb' 6 10 = 0#10 then
    (decodeParity (code.extractLsb' 2 3)).map fun par =>
      { dataBits := decodeDataBits (code.extractLsb' 0 2), parityMode := par,
        stopBits := decodeStopBits (code.getLsbD 5) }
  else none

def encodeDataBits : DataBits → BitVec 2
  | .five => 0#2
  | .six => 1#2
  | .seven => 2#2
  | .eight => 3#2

def encodeParity : ParityMode → BitVec 3
  | .none => 0#3
  | .odd => 1#3
  | .even => 2#3
  | .mark => 3#3
  | .space => 4#3

def encodeStopBits : StopBits → BitVec 1
  | .one => 0#1
  | .two => 1#1

/-- The format code of a format, in the layout of R81. -/
def encodeFormat (f : FormatSpec) : FormatCode :=
  0#10 ++ encodeStopBits f.stopBits ++ encodeParity f.parityMode ++ encodeDataBits f.dataBits

/-! ## Micro-operations (R86) -/

def encodeMicroOp : MicroOp → BitVec 3
  | .startchk => 0#3
  | .clear => 1#3
  | .vsample => 2#3
  | .vconfirm => 3#3
  | .shiftin => 4#3
  | .stopchk => 5#3
  | .final => 6#3

/-- `none` is the reserved code 111 (R191). -/
def decodeMicroOp (code : BitVec 3) : Option MicroOp :=
  match code.toNat with
  | 0 => some .startchk
  | 1 => some .clear
  | 2 => some .vsample
  | 3 => some .vconfirm
  | 4 => some .shiftin
  | 5 => some .stopchk
  | 6 => some .final
  | _ => none

/-- A micro-operation as the instruction of its row. -/
def MicroOp.toInstr : MicroOp → Instr
  | .startchk => .startchk
  | .clear => .clear
  | .vsample => .vsample
  | .vconfirm => .vconfirm
  | .shiftin => .shiftin
  | .stopchk => .stopchk
  | .final => .final

/-! ## Event codes (R90) -/

def decodeEvent (code : BitVec 2) : Except DecodeError Instr :=
  match code.toNat with
  | 0 => .ok .txtick
  | 1 => .ok .rxtick
  | 2 => .ok .rxedge
  | _ => .error .reservedEvent

/-! ## Host words (R88, R89, R94) -/

/-- A command whose `ARG` must be 0 (R94). -/
def withoutArgument (i : Instr) (arg : HostField) : Except DecodeError Instr :=
  if arg = 0#16 then .ok i else .error .nonZeroArgument

/-- The command a selector and its argument name (R89, R94). -/
def decodeSelector (hop : BitVec 4) (arg : HostField) (baud : Rat) : Except DecodeError Instr :=
  match hop.toNat with
  | 1 => .ok (.beginPort arg baud)
  | 2 => if arg.extractLsb' 1 15 = 0#15 then .ok (.endPort (arg.getLsbD 0))
         else .error .nonZeroArgument
  | 3 => withoutArgument .attachfc arg
  | 4 => if arg.extractLsb' 8 8 = 0#8 then .ok (.write (arg.extractLsb' 0 8))
         else .error .nonZeroArgument
  | 5 => withoutArgument .read arg
  | 6 => withoutArgument .peek arg
  | 7 => withoutArgument .avail arg
  | 8 => withoutArgument .availw arg
  | 9 => withoutArgument .flush arg
  | _ => .error .reservedSelector

/-- `HOP` = bits 31:28, `RSV` = 27:16, `ARG` = 15:0 (R88). -/
def decodeHost (c : HostCommand) : Except DecodeError Instr :=
  if c.word.extractLsb' 16 12 = 0#12 then
    decodeSelector (c.word.extractLsb' 28 4) (c.word.extractLsb' 0 16) c.baud
  else .error .reservedBits

/-- The decoder, total on every code word of every domain (R80, R92). -/
def decode : CodeWord → Except DecodeError Instr
  | .uop code =>
    match decodeMicroOp code with
    | some m => .ok m.toInstr
    | none => .error .reservedMicroOp
  | .event code => decodeEvent code
  | .host c => decodeHost c

/-! ## The encoder -/

/-- A host word from its selector and argument, `RSV = 0` (R88). -/
def hostWord (hop : BitVec 4) (arg : HostField) : BitVec 32 := hop ++ 0#12 ++ arg

/-- A host command that carries no side operand: its baud lines are 0 (log 16). -/
def plainCommand (hop : BitVec 4) (arg : HostField) : CodeWord := .host ⟨hostWord hop arg, 0⟩

/-- The code word of an instruction (R86, R90, R94). -/
def encode : Instr → CodeWord
  | .startchk => .uop (encodeMicroOp .startchk)
  | .clear => .uop (encodeMicroOp .clear)
  | .vsample => .uop (encodeMicroOp .vsample)
  | .vconfirm => .uop (encodeMicroOp .vconfirm)
  | .shiftin => .uop (encodeMicroOp .shiftin)
  | .stopchk => .uop (encodeMicroOp .stopchk)
  | .final => .uop (encodeMicroOp .final)
  | .txtick => .event 0#2
  | .rxtick => .event 1#2
  | .rxedge => .event 2#2
  | .beginPort code baud => .host ⟨hostWord 1#4 code, baud⟩
  | .endPort retain => plainCommand 2#4 (if retain then 1#16 else 0#16)
  | .attachfc => plainCommand 3#4 0#16
  | .write byte => plainCommand 4#4 (byte.setWidth 16)
  | .read => plainCommand 5#4 0#16
  | .peek => plainCommand 6#4 0#16
  | .avail => plainCommand 7#4 0#16
  | .availw => plainCommand 8#4 0#16
  | .flush => plainCommand 9#4 0#16

/-! ## Words of the opcode table -/

/-- The bits of a code word, as the opcode table numbers them. -/
def CodeWord.bits : CodeWord → BitVec 32
  | .uop code => code.setWidth 32
  | .event code => code.setWidth 32
  | .host c => c.word

/-- The mask and the match of an instruction's row of the opcode table. -/
def tableRow : Instr → BitVec 32 × BitVec 32
  | .startchk => (0x7#32, 0x0#32)
  | .clear => (0x7#32, 0x1#32)
  | .vsample => (0x7#32, 0x2#32)
  | .vconfirm => (0x7#32, 0x3#32)
  | .shiftin => (0x7#32, 0x4#32)
  | .stopchk => (0x7#32, 0x5#32)
  | .final => (0x7#32, 0x6#32)
  | .txtick => (0x3#32, 0x0#32)
  | .rxtick => (0x3#32, 0x1#32)
  | .rxedge => (0x3#32, 0x2#32)
  | .beginPort _ _ => (0xFFFF0000#32, 0x10000000#32)
  | .endPort _ => (0xFFFFFFFE#32, 0x20000000#32)
  | .attachfc => (0xFFFFFFFF#32, 0x30000000#32)
  | .write _ => (0xFFFFFF00#32, 0x40000000#32)
  | .read => (0xFFFFFFFF#32, 0x50000000#32)
  | .peek => (0xFFFFFFFF#32, 0x60000000#32)
  | .avail => (0xFFFFFFFF#32, 0x70000000#32)
  | .availw => (0xFFFFFFFF#32, 0x80000000#32)
  | .flush => (0xFFFFFFFF#32, 0x90000000#32)

/-- The code word that `nbits` bits of the opcode table stand for (log 17): 2 bits are an event
code, 32 a host word with baud lines 0, and 3 bits, or 3 bits in a whole byte, a micro-operation.
The table's rows of 2 and of 3 bits have the same words, and in whole bytes the same length: a byte
is read as a micro-operation. -/
def tableCodeWord (nbits w : Nat) : Option CodeWord :=
  if nbits = 2 then (if w < 4 then some (.event (BitVec.ofNat 2 w)) else none)
  else if nbits = 3 ∨ nbits = 8 then (if w < 8 then some (.uop (BitVec.ofNat 3 w)) else none)
  else if nbits = 32 then
    (if w < 4294967296 then some (.host ⟨BitVec.ofNat 32 w, 0⟩) else none)
  else none

/-- The instruction the decoder reads from a word of the opcode table. -/
def decodeTableWord (nbits w : Nat) : Option Instr :=
  match tableCodeWord nbits w with
  | none => none
  | some c =>
    match decode c with
    | .ok i => some i
    | .error _ => none

end Sys2Proof
end

