-- ==== Sys2Proof/Machine/State.lean ====
section
/-! DEFINITION. The state of one port instance (10_state.md), the faults, and the state after
construction. The list under '## State' of INVENTORY.md is this structure. -/

namespace Sys2Proof.Machine

/-- Everything the spec gives the block, and, last, the model's own three fields (log 5, log 12). -/
structure State where
  /-- the parameters of R7; no step writes them -/
  params           : Params
  /-- `POL` (R24): written at construction only -/
  pol              : Bool
  /-- R25 -/
  portActive       : Bool
  /-- R38 -/
  txEnabled        : Bool
  /-- `FMT`, `fmt`, `BAUD`, the intervals and the timing record (R26 to R33); `none` is ⊥ (R55) -/
  config           : Option PortConfig
  /-- `SCHED` (R34): the entries written so far; the empty list is ⊥ (R55) -/
  sched            : List (BitVec 3)
  /-- R27 -/
  fcAttached       : Bool
  /-- R35 -/
  txCurrentWord    : Word
  /-- R36 -/
  txRemaining      : BitVec 4
  /-- R37: also the running bit of the TX timer -/
  txRunning        : Bool
  /-- R42: the receive sequencer's program counter (R23) -/
  scheduleIndex    : BitVec 6
  /-- R40 -/
  accumulator      : Word
  /-- R41: `tentative` -/
  lastSampledLevel : Level
  /-- R39: also the running bit of the RX timer -/
  rxSampling       : Bool
  /-- R43 -/
  edgeArmed        : Bool
  /-- R44 -/
  edgePending      : Bool
  /-- `TXQ`, oldest first (R47) -/
  txq              : List Word
  /-- `RXQ`, oldest first (R47) -/
  rxq              : List Word
  /-- R48 -/
  txd              : TxPin
  /-- R48: driven by the Environment -/
  rxd              : Level
  /-- R48: driven by the Environment -/
  cts              : Level
  /-- R54: oldest first -/
  rxTrace          : List RxOutcome
  /-- `OtherPortActive` (R259): an input (log 19) -/
  otherPortActive  : Bool
  /-- the result word of the last command that completed (R91; log 15) -/
  hostResult       : Option (BitVec 32)
  /-- the commands the Host has still to run, the next one first (log 12, log 14) -/
  hostProgram      : List HostCommand
  /-- whose turn it is, the next turn first (log 12) -/
  turns            : List Turn
  /-- how many free values have been drawn (log 5) -/
  draws            : Nat
deriving DecidableEq, Repr

/-- The faults of the model (60_exceptions.md R248). -/
inductive Fault where
  /-- Raised by RXTICK alone, when the SCHED entry at `index` holds the reserved code 111 (R191).
  Safe: it ends the run, and no state the rules reach raises it. -/
  | reservedMicroOp (index : Nat)
deriving DecidableEq, Repr

/-- The refusals of the model. Every instruction has its meaning, so nothing raises one. -/
inductive Refusal where
  /-- An instruction without a meaning, by its mnemonic. Raised by nothing. Safe. -/
  | notModelled (mnemonic : String)
deriving DecidableEq, Repr

/-- The block right after construction (R270, R55 first column) with parameters `p` and polarity
`pol`, while the Environment drives `rxd`, `cts` and `OtherPortActive`. The three registers R55
leaves unspecified hold 0 (DESIGN CHOICE, log 3). -/
def State.construct (p : Params) (pol : Bool) (rxd cts : Level) (otherPortActive : Bool) :
    State where
  params           := p
  pol              := pol
  portActive       := false
  txEnabled        := false
  config           := none
  sched            := []
  fcAttached       := false
  txCurrentWord    := 0
  txRemaining      := 0#4
  txRunning        := false
  scheduleIndex    := 0#6
  accumulator      := 0
  lastSampledLevel := false
  rxSampling       := false
  edgeArmed        := false
  edgePending      := false
  txq              := []
  rxq              := []
  txd              := .released
  rxd              := rxd
  cts              := cts
  rxTrace          := []
  otherPortActive  := otherPortActive
  hostResult       := none
  hostProgram      := []
  turns            := []
  draws            := 0

/-- The machine after reset: constructed with the default parameters and normal polarity, `rxd` at
idle, `cts` at 0, no other port active (DESIGN CHOICE, log 2). -/
def State.reset : State := State.construct Config.defaultParams false true false false

end Sys2Proof.Machine
end

