-- ==== Sys2Proof/Machine/Flags.lean ====
section
/-! DEFINITION. The internal flags (10_state.md R50): the timers' running bits and the edge
detector (R15, R46), and the numeric status codes (R241). -/

namespace Sys2Proof.Machine

/-- `StartTimer(T)` (R15): the running bit of TXT is `txRunning` (R37), of RXT `rxSampling` (R39). -/
def startTimer (t : Timer) (s : State) : State :=
  match t with
  | .txt => { s with txRunning := true }
  | .rxt => { s with rxSampling := true }

/-- `StopTimer(T)` (R15). -/
def stopTimer (t : Timer) (s : State) : State :=
  match t with
  | .txt => { s with txRunning := false }
  | .rxt => { s with rxSampling := false }

/-- Whether ArmEdge draws a bit (R46). -/
def drawsOnArm (s : State) : Bool := s.params.edgeLatch == .mayLatch

/-- `ArmEdge()` (R46): under `MayLatch` the pending bit is a free value (log 5, log 7). -/
def armEdge (s : State) : State :=
  { s with
    edgeArmed := true
    edgePending := drawsOnArm s && Config.freeBit s.draws
    draws := if drawsOnArm s then s.draws + 1 else s.draws }

/-- `DisarmEdge()` (R15). -/
def disarmEdge (s : State) : State := { s with edgeArmed := false, edgePending := false }

/-- STATUS codes (R241). -/
def statusCode : Status → HostField
  | .ok => 0#16
  | .invalidFormat => 1#16
  | .invalidBaud => 2#16
  | .portBusy => 3#16
  | .inactive => 4#16
  | .empty => 5#16
  | .badCommand => 6#16

/-- Abort cause codes (R242). They reach no host and no register. -/
def abortCauseCode : AbortCause → Nat
  | .startNoise => 1
  | .voteMismatch => 2
  | .stopInvalid => 3
  | .finalStopInvalid => 4

end Sys2Proof.Machine
end

