-- ==== Sys2Proof/Machine/Operands.lean ====
section
/-! DEFINITION. What a step reads: levels and the sampled level (R14, R181), flow control (R160),
the timing record and the schedule in force, masks (R11), result words (R91). -/

namespace Sys2Proof.Machine

/-! ## Words and masks (R11) -/

/-- `1 << n` in `w` bits. -/
def oneHot (w n : Nat) : Word := narrow w (1 <<< n)

/-- `(1 << n) − 1` in `w` bits. -/
def lowMask (w n : Nat) : Word := narrow w (1 <<< n - 1)

/-- A natural in a 16-bit VALUE field; where it does not fit, a free value (R91; log 20). -/
def naturalValue (n : Nat) : HostField :=
  if n < 65536 then BitVec.ofNat 16 n else Config.wideCount n

/-- The result word: STATUS in bits 31:16, VALUE in bits 15:0 (R91). -/
def resultWord (status : Status) (value : HostField) : BitVec 32 := statusCode status ++ value

/-! ## Levels (R14) -/

/-- `Logical(v) = v ^ POL` (R14). -/
def logical (s : State) (v : Level) : Level := v ^^ s.pol

/-- The pin level of idle, stop and mark: logical 1 (R14, R164). -/
def idleLevel (s : State) : Level := true ^^ s.pol

/-- The pin level of a start bit: logical 0 (R14, R146). -/
def startLevel (s : State) : Level := false ^^ s.pol

/-- The level `s` a micro-operation that reads the pin samples (R181). -/
def sampled (s : State) : Level := logical s s.rxd

/-- The start transition, from logical 1 to logical 0 (R45). -/
def isStartTransition (s : State) (old new : Level) : Bool := logical s old && !logical s new

/-! ## Flow control (R160) -/

/-- `permitted` (R160). -/
def permitted (s : State) : Bool := !s.fcAttached || s.cts == s.params.ctsAsserted

/-- `blocking` (R160). -/
def blocking (s : State) : Bool := s.fcAttached && s.cts != s.params.ctsAsserted

/-! ## The configuration in force -/

/-- The timing record in force; while it is ⊥ it reads as a free value (R55; log 4). -/
def timing (s : State) : Timing :=
  match s.config with
  | some c => c.timing
  | none => Config.unsetTiming

/-- `SCHED[i]` (R34); an entry never written reads as a free code (R55; log 4). -/
def schedEntry (s : State) (i : Nat) : BitVec 3 := s.sched.getD i (Config.unsetCode i)

/-- VALUE of READ and PEEK for the word `w`: `w & dataBitsMask`, "at most 8 bits" (R66, R215). -/
def maskedValue (s : State) (w : Word) : HostField :=
  BitVec.ofNat 16 (w &&& (timing s).dataBitsMask)

/-- The index `i` of the micro-operation that is running: RXTICK has already advanced
`scheduleIndex` past it (R182; log 18). -/
def opIndex (s : State) : Nat := (s.scheduleIndex - 1#6).toNat

end Sys2Proof.Machine
end

