-- ==== Sys2Proof/Machine/FormatResolver.lean ====
section
/-! DEFINITION. The format resolver (40_format_resolver.md): FORMAT_DECODE, RESOLVE, BUILD_SCHED and
BAUD_OK. -/

namespace Sys2Proof.Machine

/-- `FORMAT_DECODE` under the parameters (R7, R82; log 9). -/
def formatDecode (p : Params) (code : FormatCode) : Option FormatSpec :=
  match p.formatMap with
  | .layout => decodeFormat code
  | .rows table => table.lookup code

/-- Whether a rule accepts a baud. -/
def ruleAccepts (baud : Rat) : BaudRule → Bool
  | .anyPositive => true
  | .atLeast minimum => decide (minimum ≤ baud)
  | .atMost maximum => decide (baud ≤ maximum)
  | .oneOf bauds => bauds.contains baud
  | .both r₁ r₂ => ruleAccepts baud r₁ && ruleAccepts baud r₂
  | .either r₁ r₂ => ruleAccepts baud r₁ || ruleAccepts baud r₂
  | .except r => !ruleAccepts baud r
  | .platform => Config.platformBaudOk baud

/-- `BAUD_OK` (R121; log 8). -/
def baudOk (p : Params) (baud : Rat) : Bool := decide (0 < baud) && ruleAccepts baud p.baudRule

/-- 1 when the format has a parity bit, else 0 (R112). -/
def parityBits : ParityMode → Nat
  | .none => 0
  | .odd => 1
  | .even => 1
  | .mark => 1
  | .space => 1

/-- `bitsToSend` as a number (R112). -/
def bitCount (f : FormatSpec) : Nat := f.dataBits.count + parityBits f.parityMode

/-- The timing record of a format (R110, R112 to R118). -/
def timingOf (p : Params) (f : FormatSpec) : Timing where
  fmt            := f
  bitsToSend     := BitVec.ofNat 4 (bitCount f)
  txShiftCount   := BitVec.ofNat 4 (bitCount f + f.stopBits.count)
  dataBitsMask   := lowMask p.wordW f.dataBits.count
  parityBitMask  := if f.parityMode = .none then 0 else oneHot p.wordW f.dataBits.count
  parityMode     := f.parityMode
  stopBitPattern := narrow p.wordW (lowMask p.wordW f.stopBits.count <<< bitCount f)
  shiftInBit     := oneHot p.wordW (bitCount f - 1)
  schedLen       := 4 + 4 * bitCount f + p.stopTicks * f.stopBits.count - 1

/-- RESOLVE (R110); `none` is `InvalidFormat`. -/
def resolve (p : Params) (code : FormatCode) : Option Timing := (formatDecode p code).map (timingOf p)

/-- `op(i)` (R119), with `b = bitsToSend` and `L = schedLen`. -/
def scheduleOp (b L i : Nat) : MicroOp :=
  if i < 3 then .startchk
  else if i = 3 then .clear
  else if i < 4 + 4 * b then
    match (i - 4) % 4 with
    | 0 => .vsample
    | 1 => .vconfirm
    | 2 => .vconfirm
    | _ => .shiftin
  else if i < L - 1 then .stopchk
  else .final

/-- The codes BUILD_SCHED writes (R120). -/
def scheduleCodes (t : Timing) : List (BitVec 3) :=
  (List.range t.schedLen).map fun i => encodeMicroOp (scheduleOp t.bitsToSend.toNat t.schedLen i)

/-- BUILD_SCHED (R120): entries at `schedLen` and above keep their old values. -/
def buildSched (t : Timing) (old : List (BitVec 3)) : List (BitVec 3) :=
  scheduleCodes t ++ old.drop t.schedLen

/-- `baudInterval = 1 000 000 / BAUD` microseconds (R33; log 21). -/
def baudIntervalOf (baud : Rat) : Rat := 1000000 / baud

/-- What a BEGIN that succeeds writes from its arguments (R211, R33), FMT in the `w` bits of a word
(R26; log 1). -/
def portConfig (w : Nat) (code : FormatCode) (baud : Rat) (t : Timing) : PortConfig where
  code           := narrow w code.toNat
  baud           := baud
  baudInterval   := baudIntervalOf baud
  sampleInterval := baudIntervalOf baud / 4
  timing         := t

end Sys2Proof.Machine
end

