-- ==== Sys2Proof/Machine/FrameCodec.lean ====
section
/-! DEFINITION. The transmit frame marshaller (41_frame_codec.md): FOLD, ADDPARITY, ASSEMBLE. -/

namespace Sys2Proof.Machine

/-- FOLD (R140): the XOR of all bits of a word of `w` bits. -/
def fold (w : Nat) (v : Word) : Bool := (List.range w).foldl (fun p i => p ^^ v.testBit i) false

/-- ADDPARITY (R141), of words of `w` bits. -/
def addParity (w : Nat) (t : Timing) (v : Word) : Word :=
  match t.parityMode with
  | .even => if fold w v then v ||| t.parityBitMask else v
  | .odd => if fold w v then v else v ||| t.parityBitMask
  | .mark => v ||| t.parityBitMask
  | .space => v
  | .none => v

/-- ASSEMBLE at logical levels (R142 with POL = 0). -/
def assembleLogical (w : Nat) (t : Timing) (byte : HostByte) : Word :=
  addParity w t (byte.toNat &&& t.dataBitsMask) ||| t.stopBitPattern

/-- ASSEMBLE (R142): under `POL = 1` the bits the shifter sends, and only those, are inverted
(R143). -/
def assemble (w : Nat) (t : Timing) (pol : Bool) (byte : HostByte) : Word :=
  if pol then assembleLogical w t byte ^^^ lowMask w t.txShiftCount.toNat
  else assembleLogical w t byte

end Sys2Proof.Machine
end

