-- ==== Sys2Proof/Machine/Ops.lean ====
section
/-! DEFINITION. The named operations: FIFOs (R13), pins (R14), draws (R16), the receive abort (R200),
returning from a host command (R91), and the moves of the Environment (R49). -/

namespace Sys2Proof.Machine

/-! ## FIFOs (R13) -/

/-- `Full(TXQ)`. -/
def txFull (s : State) : Bool := s.txq.length == s.params.txCap

/-- `Full(RXQ)`. -/
def rxFull (s : State) : Bool := s.rxq.length == s.params.rxCap

/-- `Push(TXQ, w)`. -/
def pushTx (w : Word) (s : State) : State := { s with txq := s.txq ++ [w] }

/-- `Push(RXQ, w)`. -/
def pushRx (w : Word) (s : State) : State := { s with rxq := s.rxq ++ [w] }

/-- `Clear(TXQ); Clear(RXQ)`. -/
def clearFifos (s : State) : State := { s with txq := [], rxq := [] }

/-! ## Pins (R14) -/

/-- `PinWrite(txd, v)`. -/
def writeTxd (v : Level) (s : State) : State := { s with txd := .driven v }

/-- `PinRelease(txd)`. -/
def releaseTxd (s : State) : State := { s with txd := .released }

/-! ## Receive outcomes -/

/-- `rxTrace append` (R54). -/
def appendTrace (o : RxOutcome) (s : State) : State := { s with rxTrace := s.rxTrace ++ [o] }

/-- `Abort(cause)` (R200), the block's one trap-like event (R254): the RX timer stops, the edge
detector is armed, the trace records the cause and the index of the micro-operation that raised it.
Nothing is saved and there is no return from it (R255). -/
def abort (cause : AbortCause) (s : State) : State :=
  appendTrace (.aborted cause (opIndex s)) (armEdge (stopTimer .rxt s))

/-! ## Draws -/

/-- `txCurrentWord` takes a free value: R55 leaves it unspecified after BEGIN (log 6). -/
def drawCurrentWord (s : State) : State :=
  { s with
    txCurrentWord := narrow s.params.wordW (Config.freeWord s.draws)
    draws := s.draws + 1 }

/-! ## Host commands -/

/-- `return (status, value)` (R16, R91): the command has completed. -/
def complete (status : Status) (value : HostField) (s : State) : State :=
  { s with hostResult := some (resultWord status value) }

/-- `if Full(TXQ): hold` of WRITE on an active port (R214). -/
def writeHolds (s : State) : Bool := s.portActive && txFull s

/-- `if not (Empty(TXQ) and txRunning = 0): hold` of FLUSH on an active port (R219). -/
def flushHolds (s : State) : Bool := s.portActive && !(s.txq.isEmpty && !s.txRunning)

/-! ## Moves of the Environment (R49, R259) -/

/-- `LINE(v)` (R49). -/
def lineMove (v : Level) (s : State) : State :=
  { s with
    rxd := v
    edgePending := s.edgePending || (s.edgeArmed && isStartTransition s s.rxd v) }

/-- `CTS(v)` (R49). -/
def ctsMove (v : Level) (s : State) : State := { s with cts := v }

/-- Another instance becomes active or inactive (R259; log 19). -/
def otherPortMove (active : Bool) (s : State) : State := { s with otherPortActive := active }

end Sys2Proof.Machine
end

