-- ==== Sys2Proof/Machine/HostInterface.lean ====
section
/-! DEFINITION. The nine host commands (44_host_interface.md). A command that holds is no step
(R210(a)): its meaning then changes nothing, and the Host runs the command again at its next turn
(log 13, log 14). -/

namespace Sys2Proof.Machine

/-- `StopTimer(TXT); StopTimer(RXT); DisarmEdge()` (R211, R212). -/
def quiesce (s : State) : State := disarmEdge (stopTimer .rxt (stopTimer .txt s))

/-- The registers BEGIN clears (R211). -/
def clearRegisters (s : State) : State :=
  { s with
    txRemaining := 0#4
    accumulator := 0
    lastSampledLevel := false
    scheduleIndex := 0#6 }

/-- `portActive` and `txEnabled`, written together (R38). -/
def setActive (v : Bool) (s : State) : State := { s with portActive := v, txEnabled := v }

/-- FMT, fmt, BAUD, the timing record and SCHED (R211). -/
def configure (c : PortConfig) (s : State) : State :=
  { s with config := some c, sched := buildSched c.timing s.sched }

/-- What a BEGIN that succeeds does (R211, R271). -/
def activate (c : PortConfig) (s : State) : State :=
  armEdge
    (writeTxd (idleLevel s)
      (setActive true
        (drawCurrentWord (clearRegisters (clearFifos (configure c (quiesce s)))))))

/-- BEGIN (R211): the checks in the order of R243. -/
def execBeginPort (code : FormatCode) (baud : Rat) (s : State) : Host.Outcome State Fault Refusal :=
  if baudOk s.params baud then
    match resolve s.params code with
    | none => .next (complete .invalidFormat 0#16 s)
    | some t =>
      if s.otherPortActive then .next (complete .portBusy 0#16 s)
      else .next (complete .ok 0#16 (activate (portConfig s.params.wordW code baud t) s))
  else .next (complete .invalidBaud 0#16 s)

/-- What END does to an active port (R212). -/
def deactivate (retain : Bool) (s : State) : State :=
  let silenced := { setActive false (quiesce s) with txRemaining := 0#4 }
  if retain then writeTxd (idleLevel s) silenced else releaseTxd silenced

/-- END (R212). -/
def execEndPort (retain : Bool) (s : State) : Host.Outcome State Fault Refusal :=
  .next (complete .ok 0#16 (if s.portActive then deactivate retain s else s))

/-- ATTACHFC (R213). -/
def execAttachfc (s : State) : Host.Outcome State Fault Refusal :=
  .next (complete .ok 0#16 { s with fcAttached := true })

/-- WRITE (R214). -/
def execWrite (byte : HostByte) (s : State) : Host.Outcome State Fault Refusal :=
  if s.portActive then
    if txFull s then .next s
    else
      .next (complete .ok 1#16
        (startTimer .txt (pushTx (assemble s.params.wordW (timing s) s.pol byte) s)))
  else .next (complete .inactive 0#16 s)

/-- READ (R215). -/
def execRead (s : State) : Host.Outcome State Fault Refusal :=
  match s.rxq with
  | [] => .next (complete .empty 0#16 s)
  | w :: rest => .next (complete .ok (maskedValue s w) { s with rxq := rest })

/-- PEEK (R216). -/
def execPeek (s : State) : Host.Outcome State Fault Refusal :=
  match s.rxq with
  | [] => .next (complete .empty 0#16 s)
  | w :: _ => .next (complete .ok (maskedValue s w) s)

/-- AVAIL (R217). -/
def execAvail (s : State) : Host.Outcome State Fault Refusal :=
  .next (complete .ok (naturalValue s.rxq.length) s)

/-- AVAILW (R218). -/
def execAvailw (s : State) : Host.Outcome State Fault Refusal :=
  .next (complete .ok (naturalValue (s.params.txCap - s.txq.length)) s)

/-- FLUSH (R219). -/
def execFlush (s : State) : Host.Outcome State Fault Refusal :=
  if s.portActive then
    if flushHolds s then .next s else .next (complete .ok 0#16 s)
  else .next (complete .inactive 0#16 s)

/-- The command is held in this state (R210(a)): only WRITE and FLUSH ever hold. -/
def hostHolds (i : Instr) (s : State) : Bool :=
  match i with
  | .write _ => writeHolds s
  | .flush => flushHolds s
  | .startchk => false
  | .clear => false
  | .vsample => false
  | .vconfirm => false
  | .shiftin => false
  | .stopchk => false
  | .final => false
  | .txtick => false
  | .rxtick => false
  | .rxedge => false
  | .beginPort _ _ => false
  | .endPort _ => false
  | .attachfc => false
  | .read => false
  | .peek => false
  | .avail => false
  | .availw => false

end Sys2Proof.Machine
end

