-- ==== Sys2Proof/Machine/Receive.lean ====
section
/-! DEFINITION. The receive engine (43_receive_engine.md): the seven micro-operations, RXEDGE and
RXTICK. A micro-operation runs inside the RXTICK that fetched it, `scheduleIndex` already advanced
past it (R182; log 18). -/

namespace Sys2Proof.Machine

/-- STARTCHK (R184). -/
def execStartchk (s : State) : Host.Outcome State Fault Refusal :=
  .next (if sampled s then abort .startNoise s else s)

/-- CLEAR (R185). -/
def execClear (s : State) : Host.Outcome State Fault Refusal :=
  .next { s with accumulator := 0 }

/-- VSAMPLE (R186): the logical level (90_conflicts.md C11). -/
def execVsample (s : State) : Host.Outcome State Fault Refusal :=
  .next { s with lastSampledLevel := sampled s }

/-- VCONFIRM (R187): one disagreeing sample aborts (90_conflicts.md C5). -/
def execVconfirm (s : State) : Host.Outcome State Fault Refusal :=
  .next (if sampled s = s.lastSampledLevel then s else abort .voteMismatch s)

/-- SHIFTIN (R188): the shift comes before the OR. -/
def execShiftin (s : State) : Host.Outcome State Fault Refusal :=
  .next { s with
    accumulator :=
      s.accumulator >>> 1 ||| (if s.lastSampledLevel then (timing s).shiftInBit else 0) }

/-- STOPCHK (R189). -/
def execStopchk (s : State) : Host.Outcome State Fault Refusal :=
  .next (if sampled s then s else abort .stopInvalid s)

/-- The push of FINAL: the accumulator, or, with RXQ full, nothing but a trace entry (R190, R245). -/
def deliver (s : State) : State :=
  if rxFull s then appendTrace (.dropped s.accumulator) s
  else appendTrace (.pushed s.accumulator) (pushRx s.accumulator s)

/-- FINAL (R190). -/
def execFinal (s : State) : Host.Outcome State Fault Refusal :=
  .next (if sampled s then armEdge (stopTimer .rxt (deliver s)) else abort .finalStopInvalid s)

/-- RXEDGE is enabled (R180). -/
def rxedgeEnabled (s : State) : Bool := s.edgeArmed && s.edgePending

/-- RXEDGE (R180). Where it is not enabled it is no step, and nothing changes (log 13). -/
def execRxedge (s : State) : Host.Outcome State Fault Refusal :=
  if rxedgeEnabled s then
    .next (startTimer .rxt { disarmEdge s with scheduleIndex := 0#6 })
  else .next s

/-- One micro-operation. -/
def runMicroOp (m : MicroOp) (s : State) : Host.Outcome State Fault Refusal :=
  match m with
  | .startchk => execStartchk s
  | .clear => execClear s
  | .vsample => execVsample s
  | .vconfirm => execVconfirm s
  | .shiftin => execShiftin s
  | .stopchk => execStopchk s
  | .final => execFinal s

/-- `scheduleIndex <- i + 1` (R182), in 6 bits (log 11). -/
def advanceIndex (s : State) : State := { s with scheduleIndex := s.scheduleIndex + 1#6 }

/-- RXTICK (R182): fetch, advance, run; the reserved code is the model's fault (R191). Enabled
while `rxSampling = 1`, otherwise no step (log 13). -/
def execRxtick (s : State) : Host.Outcome State Fault Refusal :=
  if s.rxSampling then
    match decodeMicroOp (schedEntry s s.scheduleIndex.toNat) with
    | some m => runMicroOp m (advanceIndex s)
    | none => .fault (.reservedMicroOp s.scheduleIndex.toNat)
  else .next s

end Sys2Proof.Machine
end

