-- ==== Sys2Proof/Machine/Transmit.lean ====
section
/-! DEFINITION. The transmit engine (42_transmit_engine.md): TXTICK and its four cases. -/

namespace Sys2Proof.Machine

/-- Case A, a bit in progress (R161). -/
def sendBit (s : State) : State :=
  { s with
    txd := .driven (s.txCurrentWord.testBit 0)
    txCurrentWord := s.txCurrentWord >>> 1
    txRemaining := s.txRemaining - 1#4 }

/-- Case B, dispatch of the word `w`, `rest` staying queued (R162). -/
def dispatchWord (w : Word) (rest : List Word) (s : State) : State :=
  { s with
    txq := rest
    txd := .driven (startLevel s)
    txCurrentWord := w
    txRemaining := (timing s).txShiftCount }

/-- Case D, going idle (R164). -/
def goIdle (s : State) : State := stopTimer .txt (writeTxd (idleLevel s) s)

/-- The tick with no bit in progress: case B, C or D (R162 to R164). -/
def betweenWords (s : State) : State :=
  match s.txq with
  | w :: rest =>
    if s.txEnabled && permitted s then dispatchWord w rest s
    else if blocking s then s
    else goIdle s
  | [] => if blocking s then s else goIdle s

/-- TXTICK (R165). Enabled while `txRunning = 1`, otherwise no step (log 13). -/
def execTxtick (s : State) : Host.Outcome State Fault Refusal :=
  if s.txRunning then .next (if s.txRemaining = 0#4 then betweenWords s else sendBit s)
  else .next s

end Sys2Proof.Machine
end

