-- ==== Sys2Proof/Machine/Dispatch.lean ====
section
/-! DEFINITION. One arm per instruction. -/

namespace Sys2Proof.Machine

def exec (i : Instr) (s : State) : Host.Outcome State Fault Refusal :=
  match i with
  -- the micro-operations of the receive sequencer
  | .startchk => Sys2Proof.Machine.execStartchk s
  | .clear => Sys2Proof.Machine.execClear s
  | .vsample => Sys2Proof.Machine.execVsample s
  | .vconfirm => Sys2Proof.Machine.execVconfirm s
  | .shiftin => Sys2Proof.Machine.execShiftin s
  | .stopchk => Sys2Proof.Machine.execStopchk s
  | .final => Sys2Proof.Machine.execFinal s
  -- the steps of the timer and edge agents
  | .txtick => Sys2Proof.Machine.execTxtick s
  | .rxtick => Sys2Proof.Machine.execRxtick s
  | .rxedge => Sys2Proof.Machine.execRxedge s
  -- the host commands
  | .beginPort code baud => Sys2Proof.Machine.execBeginPort code baud s
  | .endPort retain => Sys2Proof.Machine.execEndPort retain s
  | .attachfc => Sys2Proof.Machine.execAttachfc s
  | .write byte => Sys2Proof.Machine.execWrite byte s
  | .read => Sys2Proof.Machine.execRead s
  | .peek => Sys2Proof.Machine.execPeek s
  | .avail => Sys2Proof.Machine.execAvail s
  | .availw => Sys2Proof.Machine.execAvailw s
  | .flush => Sys2Proof.Machine.execFlush s

end Sys2Proof.Machine
end

