-- ==== Sys2Proof/Machine/Agents.lean ====
section
/-! DEFINITION. What each agent does at its turn (00_scope.md R8, R9; log 12 to log 14), and how a
code word is put where the next turn finds it. -/

namespace Sys2Proof.Machine

/-- The Host's turn: its next command runs and is gone, unless it holds; a word that is no command
returns BAD_COMMAND (R210, R249); with no command left the Host is idle. -/
def hostTurn (s : State) : Host.Outcome State Fault Refusal :=
  match s.hostProgram with
  | [] => .next s
  | c :: rest =>
    match decodeHost c with
    | .error _ => .next (complete .badCommand 0#16 { s with hostProgram := rest })
    | .ok i => if hostHolds i s then .next s else exec i { s with hostProgram := rest }

/-- A timer's or the edge detector's turn, by event code; 11 names no step (R90, R249). -/
def eventTurn (code : BitVec 2) (s : State) : Host.Outcome State Fault Refusal :=
  match decodeEvent code with
  | .error _ => .next s
  | .ok i => exec i s

/-- One turn of one agent. -/
def takeTurn (t : Turn) (s : State) : Host.Outcome State Fault Refusal :=
  match t with
  | .host => hostTurn s
  | .event code => eventTurn code s
  | .line v => .next (lineMove v s)
  | .cts v => .next (ctsMove v s)
  | .otherPort v => .next (otherPortMove v s)

/-- The next turn and the state that takes it: the first of `turns`, or a free turn (log 12). -/
def nextTurn (s : State) : Turn × State :=
  match s.turns with
  | t :: rest => (t, { s with turns := rest })
  | [] => (Config.freeTurn s.draws, { s with draws := s.draws + 1 })

/-! ## Placing a code word (log 17) -/

/-- SCHED with `code` as its first entry. -/
def placeFirst (code : BitVec 3) (sched : List (BitVec 3)) : List (BitVec 3) :=
  code :: sched.drop 1

/-- The RX sequencer about to fetch `code` at index 0, RXT running, the RX timer's turn next. -/
def placeMicroOp (code : BitVec 3) (s : State) : State :=
  { s with
    sched := placeFirst code s.sched
    scheduleIndex := 0#6
    rxSampling := true
    turns := .event 1#2 :: s.turns }

/-- The event's step next, with what enables it: the running timer, an edge that is pending, and,
for RXTICK, an entry to fetch (STARTCHK, the first of every schedule, R119). -/
def placeEvent (code : BitVec 2) (s : State) : State :=
  match code.toNat with
  | 0 => { s with txRunning := true, turns := .event code :: s.turns }
  | 1 => placeMicroOp (encodeMicroOp .startchk) s
  | 2 => { s with edgeArmed := true, edgePending := true, turns := .event code :: s.turns }
  | _ => { s with turns := .event code :: s.turns }

/-- The Host's next command, and the Host's turn. -/
def placeCommand (c : HostCommand) (s : State) : State :=
  { s with hostProgram := c :: s.hostProgram, turns := .host :: s.turns }

/-- A code word placed where the next step runs it. -/
def placeCodeWord (c : CodeWord) (s : State) : State :=
  match c with
  | .uop code => placeMicroOp code s
  | .event code => placeEvent code s
  | .host command => placeCommand command s

end Sys2Proof.Machine
end

