-- ==== Sys2Proof/Machine/Assembler.lean ====
section
/-! DEFINITION. The pseudo-instructions (30_encoding.md R97), the format names (R83), the schedule
listing (R87) and the statement text (R96). Text is a list of characters. No step uses anything
here: it turns program text into commands and turns (log 22). -/

namespace Sys2Proof.Machine

/-! ## Schedule macros (R97) -/

/-- `START`. -/
def macroStart : List MicroOp := [.startchk, .startchk, .startchk, .clear]

/-- `BIT`. -/
def macroBit : List MicroOp := [.vsample, .vconfirm, .vconfirm, .shiftin]

/-- `STOP n`, with `ticks` = STOP_TICKS_PER_STOP_BIT. -/
def macroStop (ticks n : Nat) : List MicroOp := List.replicate (ticks * n - 2) .stopchk ++ [.final]

/-- `SCHED <fmt>`. -/
def macroSched (ticks : Nat) (f : FormatSpec) : List MicroOp :=
  macroStart ++ (List.replicate (bitCount f) macroBit).flatten ++ macroStop ticks f.stopBits.count

/-! ## Host and Environment macros (R97) -/

/-- Commands to issue and turns to take: what a piece of program text stands for. -/
abbrev Script := List HostCommand × List Turn

/-- One command, issued at a turn of the Host. -/
def commandScript (hop : BitVec 4) (arg : HostField) (baud : Rat) : Script :=
  ([⟨hostWord hop arg, baud⟩], [.host])

def appendScript (a b : Script) : Script := (a.1 ++ b.1, a.2 ++ b.2)

/-- `SEND b1, ..., bn`: `WRITE b1; ...; WRITE bn`. -/
def macroSend (bytes : List HostByte) : Script :=
  bytes.foldr (fun b r => appendScript (commandScript 4#4 (b.setWidth 16) 0) r) ([], [])

/-- `RXSAMPLES s0 s1 ...`: `LINE (s0 ^ POL); RXTICK; LINE (s1 ^ POL); RXTICK; ...`. -/
def macroRxSamples (pol : Bool) (samples : List Level) : List Turn :=
  samples.foldr (fun v r => .line (v ^^ pol) :: .event 1#2 :: r) []

/-! ## Numbers and names -/

def digitValue (c : Char) : Option Nat :=
  if '0'.toNat ≤ c.toNat ∧ c.toNat ≤ '9'.toNat then some (c.toNat - '0'.toNat)
  else if 'a'.toNat ≤ c.toNat ∧ c.toNat ≤ 'f'.toNat then some (c.toNat - 'a'.toNat + 10)
  else none

/-- Digits in a base, most significant first, after the value read so far. -/
def readDigits (base : Nat) : Nat → List Char → Option Nat
  | n, [] => some n
  | n, c :: cs =>
    match digitValue c with
    | some d => if d < base then readDigits base (base * n + d) cs else none
    | none => none

/-- A number, "in decimal or `0x` hexadecimal" (R96), in lower case. -/
def readNumber : List Char → Option Nat
  | [] => none
  | '0' :: 'x' :: c :: cs => readDigits 16 0 (c :: cs)
  | c :: cs => readDigits 10 0 (c :: cs)

/-- A number below `bound`. -/
def readBelow (bound : Nat) (cs : List Char) : Option Nat :=
  match readNumber cs with
  | some n => if n < bound then some n else none
  | none => none

def parityLetter : ParityMode → Char
  | .none => 'n'
  | .odd => 'o'
  | .even => 'e'
  | .mark => 'm'
  | .space => 's'

/-- `<dataBits><P><stopBits>` (R83), in lower case. -/
def formatName (f : FormatSpec) : List Char :=
  [Char.ofNat (48 + f.dataBits.count), parityLetter f.parityMode,
   Char.ofNat (48 + f.stopBits.count)]

/-- The 40 formats, in the order of their codes (R122). -/
def allFormats : List FormatSpec :=
  [StopBits.one, .two].flatMap fun sb =>
    [ParityMode.none, .odd, .even, .mark, .space].flatMap fun par =>
      [DataBits.five, .six, .seven, .eight].map fun db =>
        { dataBits := db, parityMode := par, stopBits := sb }

/-- `<fmt>` of a BEGIN statement: "a code number or a name of rule R83" (R96). -/
def readFormat (cs : List Char) : Option FormatCode :=
  match allFormats.find? fun f => formatName f == cs with
  | some f => some (encodeFormat f)
  | none => (readBelow 65536 cs).map (BitVec.ofNat 16)

def readLevel (cs : List Char) : Option Level := (readBelow 2 cs).map (· == 1)

def readByte (cs : List Char) : Option HostByte := (readBelow 256 cs).map (BitVec.ofNat 8)

/-- Every operand, or nothing. -/
def readAll {α : Type} (read : List Char → Option α) : List (List Char) → Option (List α)
  | [] => some []
  | x :: xs =>
    match read x, readAll read xs with
    | some a, some as => some (a :: as)
    | _, _ => none

/-! ## Statements (R96) -/

/-- The words of a line: spaces and commas part them, and a `;` ends the line (log 22). -/
def splitWords : List Char → List Char → List (List Char)
  | word, [] => if word.isEmpty then [] else [word.reverse]
  | word, c :: cs =>
    if c = ';' then (if word.isEmpty then [] else [word.reverse])
    else if c = ' ' ∨ c = ',' then
      (if word.isEmpty then splitWords [] cs else word.reverse :: splitWords [] cs)
    else splitWords (c.toLower :: word) cs

/-- The mnemonics of R18 that stand alone, with what each stands for. -/
def bareStatements : List (List Char × Script) :=
  [(['e', 'n', 'd'], commandScript 2#4 1#16 0),
   (['a', 't', 't', 'a', 'c', 'h', 'f', 'c'], commandScript 3#4 0#16 0),
   (['r', 'e', 'a', 'd'], commandScript 5#4 0#16 0),
   (['p', 'e', 'e', 'k'], commandScript 6#4 0#16 0),
   (['a', 'v', 'a', 'i', 'l'], commandScript 7#4 0#16 0),
   (['a', 'v', 'a', 'i', 'l', 'w'], commandScript 8#4 0#16 0),
   (['f', 'l', 'u', 's', 'h'], commandScript 9#4 0#16 0),
   (['t', 'x', 't', 'i', 'c', 'k'], ([], [.event 0#2])),
   (['r', 'x', 't', 'i', 'c', 'k'], ([], [.event 1#2])),
   (['r', 'x', 'e', 'd', 'g', 'e'], ([], [.event 2#2]))]

/-- `BEGIN <baud>, <fmt>`. -/
def beginStatement (baud fmt : List Char) : Option Script :=
  match readNumber baud, readFormat fmt with
  | some n, some code => some (commandScript 1#4 code n)
  | _, _ => none

/-- The operand of END: RETAIN by name (as program P6 writes it) or by number; "an omitted RETAIN
means `RETAIN = 1`" (R96). -/
def endStatement (cs : List Char) : Option Script :=
  if cs = ['r', 'e', 't', 'a', 'i', 'n'] then some (commandScript 2#4 1#16 0)
  else (readLevel cs).map fun r => commandScript 2#4 (if r then 1#16 else 0#16) 0

/-- A statement from its words, under polarity `pol` (which only RXSAMPLES reads). -/
def assembleWords (pol : Bool) : List (List Char) → Option Script
  | [] => some ([], [])
  | m :: ops =>
    match bareStatements.lookup m, ops with
    | some script, [] => some script
    | _, _ =>
      if m = ['e', 'n', 'd'] then
        (match ops with | [r] => endStatement r | _ => none)
      else if m = ['b', 'e', 'g', 'i', 'n'] then
        (match ops with | [b, f] => beginStatement b f | _ => none)
      else if m = ['w', 'r', 'i', 't', 'e'] then
        (match ops with | [b] => (readByte b).map fun v => macroSend [v] | _ => none)
      else if m = ['s', 'e', 'n', 'd'] then (readAll readByte ops).map macroSend
      else if m = ['l', 'i', 'n', 'e'] then
        (match ops with | [v] => (readLevel v).map fun l => ([], [.line l]) | _ => none)
      else if m = ['c', 't', 's'] then
        (match ops with | [v] => (readLevel v).map fun l => ([], [.cts l]) | _ => none)
      else if m = ['r', 'x', 's', 'a', 'm', 'p', 'l', 'e', 's'] then
        (readAll readLevel ops).map fun ls => ([], macroRxSamples pol ls)
      else none

/-- One line of program text; an empty line or a comment stands for nothing. -/
def assembleLine (pol : Bool) (line : List Char) : Option Script :=
  assembleWords pol (splitWords [] line)

/-- A program, one statement a line. -/
def assembleProgram (pol : Bool) (lines : List (List Char)) : Option Script :=
  (readAll (assembleLine pol) lines).map (List.foldr appendScript ([], []))

/-! ## Schedule listings (R87) -/

/-- The mnemonics of R18, as R87 writes them. -/
def microOpName : MicroOp → List Char
  | .startchk => ['S', 'T', 'A', 'R', 'T', 'C', 'H', 'K']
  | .clear => ['C', 'L', 'E', 'A', 'R']
  | .vsample => ['V', 'S', 'A', 'M', 'P', 'L', 'E']
  | .vconfirm => ['V', 'C', 'O', 'N', 'F', 'I', 'R', 'M']
  | .shiftin => ['S', 'H', 'I', 'F', 'T', 'I', 'N']
  | .stopchk => ['S', 'T', 'O', 'P', 'C', 'H', 'K']
  | .final => ['F', 'I', 'N', 'A', 'L']

def allMicroOps : List MicroOp :=
  [.startchk, .clear, .vsample, .vconfirm, .shiftin, .stopchk, .final]

/-- `<index>: <mnemonic>`. -/
def listingLine (i : Nat) (m : MicroOp) : List Char :=
  Nat.toDigits 10 i ++ [':', ' '] ++ microOpName m

/-- A schedule from entry `i` on, one micro-operation a line, "with index 0 first" (R87). -/
def listingFrom : Nat → List MicroOp → List (List Char)
  | _, [] => []
  | i, m :: ms => listingLine i m :: listingFrom (i + 1) ms

/-- Reads a listing back: line `i` must be the line of entry `i` for some micro-operation. -/
def readListingFrom : Nat → List (List Char) → Option (List MicroOp)
  | _, [] => some []
  | i, l :: ls =>
    match allMicroOps.find? fun m => listingLine i m == l with
    | none => none
    | some m => (readListingFrom (i + 1) ls).map (m :: ·)

end Sys2Proof.Machine
end

