-- ==== Sys2Proof/Machine/Timing.lean ====
section
/-! DEFINITION. The timing relations of 40_format_resolver.md R124 and 70_reset_and_hazards.md R290
to R292, as functions of the intervals. Time is not state (R10): no step reads anything here. -/

namespace Sys2Proof.Machine

/-- When schedule entry `i` runs, after RXEDGE: `(i + 1) · sampleInterval` (R124, R291). -/
def rxTickInstant (sampleInterval : Rat) (i : Nat) : Rat := (i + 1) * sampleInterval

/-- When the `n`-th TX tick (from 0) comes after the WRITE that started the timer (R290). -/
def txTickInstant (baudInterval : Rat) (n : Nat) : Rat := (n + 1) * baudInterval

/-- When bit `j` after the start bit begins on the line, after the start transition, for bit
period `T` (R291). Bit `b` is the first stop bit. -/
def lineBitStart (T : Rat) (j : Nat) : Rat := (1 + j) * T

/-- When that bit ends. -/
def lineBitEnd (T : Rat) (j : Nat) : Rat := (2 + j) * T

/-- An instant inside bit `j` of the character (R291). -/
def insideBit (T : Rat) (j : Nat) (t : Rat) : Prop := lineBitStart T j ≤ t ∧ t ≤ lineBitEnd T j

/-- The receiver's sample interval at clock ratio `r`: `4 · sampleInterval = r · T` (R291). -/
def sampleIntervalAt (T r : Rat) : Rat := r * T / 4

/-- The schedule indices of bit `j` that read the pin: VSAMPLE and the two VCONFIRMs (R119). -/
def sampleIndices (j : Nat) : List Nat := [4 + 4 * j, 4 + 4 * j + 1, 4 + 4 * j + 2]

/-- When the receiver is armed again after a character of `schedLen` entries (R291). -/
def rearmInstant (sampleInterval : Rat) (schedLen : Nat) : Rat := schedLen * sampleInterval

/-- How long a character is on the line: the start bit and the bits the shifter sends (R166, R292). -/
def characterTime (baudInterval : Rat) (t : Timing) : Rat :=
  (1 + t.txShiftCount.toNat) * baudInterval

end Sys2Proof.Machine
end

