-- ==== Sys2Proof/Safety.lean ====
section
/-! DEFINITION. What claims are stated in: the invariants of 10_state.md R53, the relation of R56,
runs of ticks, and the agent an instruction belongs to (R51). -/

namespace Sys2Proof.Machine

/-! ## Invariants -/

/-- What a successful BEGIN left: in FMT the code it accepted, and the timing record of the format
that code names (R26, R110), an accepted baud (R121) and its intervals (R33). -/
structure ConfigInv (p : Params) (c : PortConfig) : Prop where
  accepted  : ∃ code, c.code = narrow p.wordW code.toNat ∧ resolve p code = some c.timing
  baud_ok   : baudOk p c.baud = true
  baud_ival : c.baudInterval = baudIntervalOf c.baud
  smpl_ival : c.sampleInterval = c.baudInterval / 4

/-- The invariants I1 to I9 of R53, with what they rest on: the parameters R7 allows, and a
schedule that is the one BUILD_SCHED wrote for the format in force (R74). -/
structure Invariants (s : State) : Prop where
  params     : s.params.wf = true
  /-- I1 -/
  enabled    : s.txEnabled = s.portActive
  /-- I2 -/
  inactive   : s.portActive = false →
    s.txRunning = false ∧ s.rxSampling = false ∧ s.edgeArmed = false ∧ s.edgePending = false
  /-- I3 -/
  exclusive  : s.portActive = true → s.rxSampling = !s.edgeArmed
  /-- I4 -/
  pending    : s.edgePending = true → s.edgeArmed = true
  /-- I5 -/
  index      : s.rxSampling = true → s.scheduleIndex.toNat < (timing s).schedLen
  /-- I6 -/
  remaining  : s.txRemaining.toNat ≤ (timing s).txShiftCount.toNat
  /-- I7 -/
  noWakeLost : s.portActive = true → s.txq ≠ [] → s.txRunning = true
  /-- I8 -/
  sending    : s.txRemaining ≠ 0#4 → s.txRunning = true
  /-- I9 -/
  txBound    : s.txq.length ≤ s.params.txCap
  rxBound    : s.rxq.length ≤ s.params.rxCap
  configured : s.portActive = true → s.config.isSome = true
  config     : ∀ c, s.config = some c → ConfigInv s.params c
  schedule   : ∀ c, s.config = some c →
    s.sched.take c.timing.schedLen = scheduleCodes c.timing

/-- Words keep to their width: the word registers to WORD_W bits (R11, R21; FMT, R26), received words and the
accumulator to `bitsToSend` bits (R85, R188), frame words to `txShiftCount` bits (R84), both of
which WORD_W holds (R7); and nothing is queued on a port never begun (R275). -/
structure WordsFit (s : State) : Prop where
  currentWidth     : s.txCurrentWord < 2 ^ s.params.wordW
  accumulatorWidth : s.accumulator < 2 ^ s.params.wordW
  codeWidth   : ∀ c, s.config = some c → c.code < 2 ^ s.params.wordW
  unset       : s.config = none → s.txq = [] ∧ s.rxq = []
  received    : ∀ c, s.config = some c → ∀ w ∈ s.rxq, w < 2 ^ c.timing.bitsToSend.toNat
  queued      : ∀ c, s.config = some c → ∀ w ∈ s.txq, w < 2 ^ c.timing.txShiftCount.toNat
  accumulated : ∀ c, s.config = some c → s.accumulator < 2 ^ c.timing.bitsToSend.toNat

/-! ## Unspecified values (R56) -/

/-- The two states differ at most in registers that the spec leaves unspecified and that no step
reads before it writes them: `txCurrentWord` while `txRemaining = 0` (R35), `accumulator` until
CLEAR has run (R40), `lastSampledLevel` until the first VSAMPLE has (R41). -/
structure SameButUnread (a b : State) : Prop where
  rest : b = { a with
    txCurrentWord := b.txCurrentWord
    accumulator := b.accumulator
    lastSampledLevel := b.lastSampledLevel }
  word : a.txRemaining ≠ 0#4 → b.txCurrentWord = a.txCurrentWord
  acc  : a.rxSampling = true → 3 < a.scheduleIndex.toNat → b.accumulator = a.accumulator
  tent : a.rxSampling = true → 4 < a.scheduleIndex.toNat →
    b.lastSampledLevel = a.lastSampledLevel

/-! ## Runs of ticks -/

/-- Run the next part on the state a part ended in. -/
def andThen (o : Host.Outcome State Fault Refusal)
    (f : State → Host.Outcome State Fault Refusal) : Host.Outcome State Fault Refusal :=
  match o with
  | .next s => f s
  | .fault r => .fault r
  | .refused r => .refused r

/-- `n` TX ticks. -/
def txTicks : Nat → State → Host.Outcome State Fault Refusal
  | 0, s => .next s
  | n + 1, s => andThen (exec .txtick s) (txTicks n)

/-- Turns of the Environment and the agents, in order. -/
def takeTurns : List Turn → State → Host.Outcome State Fault Refusal
  | [], s => .next s
  | t :: ts, s => andThen (takeTurn t s) (takeTurns ts)

/-- RX ticks that see these logical samples, one each (RXSAMPLES, R97). -/
def rxSamples (samples : List Level) (s : State) : Host.Outcome State Fault Refusal :=
  takeTurns (macroRxSamples s.pol samples) s

/-- The sample that RX tick `i` sees of a character whose frame word, at logical levels, is `w`:
the start level up to index 3, then bit `(i − 4) / 4` (R124 places tick `i` inside it). -/
def idealSample (w : Word) (i : Nat) : Level := if i < 4 then false else w.testBit ((i - 4) / 4)

/-- The samples of a whole character, one for each entry of the schedule (R193, R124). -/
def idealSamples (t : Timing) (w : Word) : List Level := (List.range t.schedLen).map (idealSample w)

/-- SHIFTINs of these bits, oldest first, each with its VSAMPLE's level already recorded (R192). -/
def shiftIns : List Level → State → Host.Outcome State Fault Refusal
  | [], s => .next s
  | v :: vs, s => andThen (exec .shiftin { s with lastSampledLevel := v }) (shiftIns vs)

/-- The word whose bit `j` is the `j`-th of the bits (R192). -/
def wordOfBits : List Level → Word
  | [] => 0
  | v :: vs => (if v then 1 else 0) + 2 * wordOfBits vs

/-! ## Writers (R51) -/

/-- The agents whose steps are instructions (R8); a micro-operation is a step of the RX timer. -/
inductive Agent where
  | host | txTimer | rxTimer | rxEdge
deriving DecidableEq, Repr

/-- Whose step an instruction is. -/
def agentOf : Instr → Agent
  | .startchk => .rxTimer
  | .clear => .rxTimer
  | .vsample => .rxTimer
  | .vconfirm => .rxTimer
  | .shiftin => .rxTimer
  | .stopchk => .rxTimer
  | .final => .rxTimer
  | .txtick => .txTimer
  | .rxtick => .rxTimer
  | .rxedge => .rxEdge
  | .beginPort _ _ => .host
  | .endPort _ => .host
  | .attachfc => .host
  | .write _ => .host
  | .read => .host
  | .peek => .host
  | .avail => .host
  | .availw => .host
  | .flush => .host

end Sys2Proof.Machine
end

