-- ==== Sys2Proof/Certificates/Slice0/Obligations.lean ====
section
/-! DEFINITION. The statements for the provers. A statement whose conclusion is an equation
`exec i s = .next t` with every changed field written out is also the instruction's frame (what `t`
does not name is unchanged) and its completion. -/

open Sys2Proof Sys2Proof.Machine

/-! ## Construction -/

/-- R270: the block right after construction, whatever the parameters, the polarity and the inputs;
and the machine's reset is one such construction. The three registers R55 leaves unspecified are
not mentioned. -/
def Obligations.ConstructedPortIsInert : Prop :=
  ∀ (p : Params) (pol rxd cts other : Bool), let s := State.construct p pol rxd cts other
    s.pol = pol ∧ s.portActive = false ∧ s.txEnabled = false ∧ s.config = none ∧ s.sched = [] ∧
    s.fcAttached = false ∧ s.txRemaining = 0#4 ∧ s.txRunning = false ∧ s.txq = [] ∧ s.rxq = [] ∧
    s.scheduleIndex = 0#6 ∧ s.rxSampling = false ∧ s.edgeArmed = false ∧ s.edgePending = false ∧
    s.txd = .released ∧ s.rxd = rxd ∧ s.cts = cts ∧ s.rxTrace = [] ∧
    ∃ p' pol' rxd' cts' other', State.reset = State.construct p' pol' rxd' cts' other'

/-- R275: what the first commands find before any BEGIN. -/
def Obligations.FirstCommandsBeforeBegin : Prop :=
  ∀ (p : Params) (pol rxd cts other retain : Bool) (b : HostByte), p.txCap < 65536 →
    let s := State.construct p pol rxd cts other
    exec .read s = .next { s with hostResult := some 0x00050000#32 } ∧
    exec .peek s = .next { s with hostResult := some 0x00050000#32 } ∧
    exec .avail s = .next { s with hostResult := some 0x00000000#32 } ∧
    exec (.write b) s = .next { s with hostResult := some 0x00040000#32 } ∧
    exec .flush s = .next { s with hostResult := some 0x00040000#32 } ∧
    exec .availw s = .next { s with hostResult := some (0#16 ++ BitVec.ofNat 16 p.txCap) } ∧
    exec (.endPort retain) s = .next { s with hostResult := some 0x00000000#32 }

/-! ## The receive abort and the edge detector -/

/-- R200 with R46: what an abort changes, and that it changes nothing else. The model's choices: the
draw of R46 under MayLatch is a free bit applied to a counter that it advances (log 5, log 7), and
the index recorded is `scheduleIndex - 1`, RXTICK having advanced it (log 18). -/
def Obligations.AbortReturnsToIdle : Prop :=
  ∀ (cause : AbortCause) (s : State),
    abort cause s = { s with
      rxSampling := false
      edgeArmed := true
      edgePending := (s.params.edgeLatch == .mayLatch) && Config.freeBit s.draws
      draws := if s.params.edgeLatch = .mayLatch then s.draws + 1 else s.draws
      rxTrace := s.rxTrace ++ [.aborted cause (s.scheduleIndex - 1#6).toNat] }

/-- R49 (with R45): LINE sets `edgePending` exactly on a start transition while armed, and `rxd`;
CTS sets `cts`; neither changes anything else. -/
def Obligations.EnvironmentMovesInputs : Prop :=
  ∀ (s : State) (v : Level),
    takeTurn (.line v) s = .next { s with
      rxd := v
      edgePending :=
        s.edgePending || (s.edgeArmed && ((s.rxd ^^ s.pol) && !(v ^^ s.pol))) } ∧
    takeTurn (.cts v) s = .next { s with cts := v }

/-- R180: RXEDGE, enabled. -/
def Obligations.RxEdgeStartsSampling : Prop :=
  ∀ s : State, s.edgeArmed = true → s.edgePending = true →
    exec .rxedge s = .next { s with
      edgeArmed := false, edgePending := false, scheduleIndex := 0#6, rxSampling := true }

/-! ## The micro-operations -/

/-- R184. -/
def Obligations.StartCheckAbortsOnIdleLevel : Prop :=
  ∀ s : State,
    ((s.rxd ^^ s.pol) = false → exec .startchk s = .next s) ∧
    ((s.rxd ^^ s.pol) = true → exec .startchk s = .next (abort .startNoise s))

/-- R185. -/
def Obligations.ClearZeroesAccumulator : Prop :=
  ∀ s : State, exec .clear s = .next { s with accumulator := 0 }

/-- R186 and R181: the logical level is recorded. -/
def Obligations.VoteSampleRecordsLogicalLevel : Prop :=
  ∀ s : State, exec .vsample s = .next { s with lastSampledLevel := s.rxd ^^ s.pol }

/-- R187. -/
def Obligations.VoteConfirmAbortsOnDisagreement : Prop :=
  ∀ s : State,
    ((s.rxd ^^ s.pol) = s.lastSampledLevel → exec .vconfirm s = .next s) ∧
    ((s.rxd ^^ s.pol) ≠ s.lastSampledLevel → exec .vconfirm s = .next (abort .voteMismatch s))

/-- R188. -/
def Obligations.ShiftInShiftsThenOrs : Prop :=
  ∀ s : State, exec .shiftin s = .next { s with
    accumulator :=
      (s.accumulator >>> 1) ||| (if s.lastSampledLevel then (timing s).shiftInBit else 0) }

/-- R189. -/
def Obligations.StopCheckAbortsOnStartLevel : Prop :=
  ∀ s : State,
    ((s.rxd ^^ s.pol) = true → exec .stopchk s = .next s) ∧
    ((s.rxd ^^ s.pol) = false → exec .stopchk s = .next (abort .stopInvalid s))

/-- R190, R245: FINAL pushes, drops on a full RXQ, or aborts; in every case the RX timer stops and
the edge detector is armed. That the draw of R46 under MayLatch is a free bit applied to a counter
that it advances is the model's choice (log 5, log 7). -/
def Obligations.FinalPushesDropsOrAborts : Prop :=
  ∀ s : State,
    ((s.rxd ^^ s.pol) = false → exec .final s = .next (abort .finalStopInvalid s)) ∧
    ((s.rxd ^^ s.pol) = true → exec .final s = .next { s with
      rxq := if s.rxq.length = s.params.rxCap then s.rxq else s.rxq ++ [s.accumulator]
      rxTrace := s.rxTrace ++
        [if s.rxq.length = s.params.rxCap then .dropped s.accumulator
         else .pushed s.accumulator]
      rxSampling := false
      edgeArmed := true
      edgePending := (s.params.edgeLatch == .mayLatch) && Config.freeBit s.draws
      draws := if s.params.edgeLatch = .mayLatch then s.draws + 1 else s.draws })

/-- R182: a tick advances the index and runs the micro-operation the entry held, and then answers a
next state; the reserved code is the fault of R191. -/
def Obligations.RxTickRunsTheIndexedEntry : Prop :=
  ∀ s : State, s.rxSampling = true →
    (∀ m, decodeMicroOp (schedEntry s s.scheduleIndex.toNat) = some m →
      exec .rxtick s = exec m.toInstr { s with scheduleIndex := s.scheduleIndex + 1#6 } ∧
      ∃ t, exec .rxtick s = .next t) ∧
    (schedEntry s s.scheduleIndex.toNat = 7#3 →
      exec .rxtick s = .fault (.reservedMicroOp s.scheduleIndex.toNat))

/-! ## The transmit tick -/

/-- R161: case A; neither `cts` nor TXQ nor `txEnabled` is asked. -/
def Obligations.TxTickSendsTheLowBit : Prop :=
  ∀ s : State, s.txRunning = true → s.txRemaining ≠ 0#4 →
    exec .txtick s = .next { s with
      txd := .driven (s.txCurrentWord.testBit 0)
      txCurrentWord := s.txCurrentWord >>> 1
      txRemaining := s.txRemaining - 1#4 }

/-- R162: case B. -/
def Obligations.TxTickDispatchesTheOldestWord : Prop :=
  ∀ (s : State) (w : Word) (rest : List Word), s.txRunning = true → s.txRemaining = 0#4 →
    s.txq = w :: rest → s.txEnabled = true →
    (s.fcAttached = false ∨ s.cts = s.params.ctsAsserted) →
    exec .txtick s = .next { s with
      txq := rest
      txd := .driven (false ^^ s.pol)
      txCurrentWord := w
      txRemaining := (timing s).txShiftCount }

/-- R163: case C changes nothing, whether or not a word is queued. -/
def Obligations.BlockedTickChangesNothing : Prop :=
  ∀ s : State, s.txRunning = true → s.txRemaining = 0#4 → s.fcAttached = true →
    s.cts ≠ s.params.ctsAsserted → exec .txtick s = .next s

/-- R164: case D. -/
def Obligations.TxTickGoesIdle : Prop :=
  ∀ s : State, s.txRunning = true → s.txRemaining = 0#4 → (s.txq = [] ∨ s.txEnabled = false) →
    (s.fcAttached = false ∨ s.cts = s.params.ctsAsserted) →
    exec .txtick s = .next { s with txd := .driven (true ^^ s.pol), txRunning := false }

/-! ## The host commands -/

/-- R211, R271: a BEGIN that succeeds. The model's choices: `txCurrentWord` takes a free value of
WORD_W bits (R55; log 6), and the draw of R46 under MayLatch is a free bit, each applied to a counter
that it advances (log 5, log 7). -/
def Obligations.BeginActivatesThePort : Prop :=
  ∀ (s : State) (code : FormatCode) (baud : Rat) (t : Timing), baudOk s.params baud = true →
    resolve s.params code = some t → s.otherPortActive = false →
    exec (.beginPort code baud) s = .next { s with
      config := some (portConfig s.params.wordW code baud t)
      sched := scheduleCodes t ++ s.sched.drop t.schedLen
      portActive := true
      txEnabled := true
      txCurrentWord := narrow s.params.wordW (Config.freeWord s.draws)
      txRemaining := 0#4
      txRunning := false
      txq := []
      rxq := []
      accumulator := 0
      lastSampledLevel := false
      scheduleIndex := 0#6
      rxSampling := false
      edgeArmed := true
      edgePending := (s.params.edgeLatch == .mayLatch) && Config.freeBit (s.draws + 1)
      txd := .driven (true ^^ s.pol)
      draws := if s.params.edgeLatch = .mayLatch then s.draws + 2 else s.draws + 1
      hostResult := some 0x00000000#32 }

/-- R243, R121, R259: the checks of BEGIN in their order; a BEGIN that fails changes nothing but
the result word, on an active port as on an inactive one. -/
def Obligations.BeginRejectsInOrder : Prop :=
  ∀ (s : State) (code : FormatCode) (baud : Rat),
    (baudOk s.params baud = false →
      exec (.beginPort code baud) s = .next { s with hostResult := some 0x00020000#32 }) ∧
    (baudOk s.params baud = true → resolve s.params code = none →
      exec (.beginPort code baud) s = .next { s with hostResult := some 0x00010000#32 }) ∧
    (baudOk s.params baud = true → (resolve s.params code).isSome = true →
      s.otherPortActive = true →
      exec (.beginPort code baud) s = .next { s with hostResult := some 0x00030000#32 })

/-- R121, R82: with the default parameters a baud is accepted exactly when it is positive and a
format code exactly when `PAR ≤ 4` and `RSV = 0`. -/
def Obligations.DefaultBeginChecks : Prop :=
  ∀ (p : Params) (code : FormatCode) (baud : Rat),
    (p.baudRule = .anyPositive → (baudOk p baud = true ↔ 0 < baud)) ∧
    (p.formatMap = .layout → ((resolve p code).isSome = true ↔
      (code.extractLsb' 2 3).toNat ≤ 4 ∧ code.extractLsb' 6 10 = 0#10))

/-- R212, R272: END of an active port, retaining or releasing `txd`, and END of an inactive one. -/
def Obligations.EndDeactivatesThePort : Prop :=
  ∀ (s : State) (retain : Bool),
    (s.portActive = true → exec (.endPort retain) s = .next { s with
      txRunning := false
      rxSampling := false
      edgeArmed := false
      edgePending := false
      portActive := false
      txEnabled := false
      txRemaining := 0#4
      txd := if retain then .driven (true ^^ s.pol) else .released
      hostResult := some 0x00000000#32 }) ∧
    (s.portActive = false →
      exec (.endPort retain) s = .next { s with hostResult := some 0x00000000#32 })

/-- R213. -/
def Obligations.AttachSetsFlowControl : Prop :=
  ∀ s : State,
    exec .attachfc s = .next { s with fcAttached := true, hostResult := some 0x00000000#32 }

/-- R214: WRITE enqueues and starts the timer; on a full TXQ it holds; on an inactive port it
returns INACTIVE. -/
def Obligations.WriteEnqueuesHoldsOrRefuses : Prop :=
  ∀ (s : State) (byte : HostByte),
    (s.portActive = true → s.txq.length ≠ s.params.txCap →
      hostHolds (.write byte) s = false ∧
      exec (.write byte) s = .next { s with
        txq := s.txq ++ [assemble s.params.wordW (timing s) s.pol byte]
        txRunning := true
        hostResult := some 0x00000001#32 }) ∧
    (s.portActive = true → s.txq.length = s.params.txCap → hostHolds (.write byte) s = true) ∧
    (s.portActive = false →
      hostHolds (.write byte) s = false ∧
      exec (.write byte) s = .next { s with hostResult := some 0x00040000#32 })

/-- R215, R216: READ removes the head and PEEK does not; both return it ANDed with `dataBitsMask`,
or EMPTY. -/
def Obligations.ReadAndPeekReturnTheHead : Prop :=
  ∀ (s : State) (w : Word) (rest : List Word),
    (s.rxq = w :: rest →
      exec .read s = .next { s with
        rxq := rest
        hostResult := some (0#16 ++ BitVec.ofNat 16 (w &&& (timing s).dataBitsMask)) } ∧
      exec .peek s = .next { s with
        hostResult := some (0#16 ++ BitVec.ofNat 16 (w &&& (timing s).dataBitsMask)) }) ∧
    (s.rxq = [] →
      exec .read s = .next { s with hostResult := some 0x00050000#32 } ∧
      exec .peek s = .next { s with hostResult := some 0x00050000#32 })

/-- R217, R218: the counts. VALUE has 16 bits (R91): for a count that they do not hold the spec
states no VALUE, the model leaves it free (log 20), and the command completes all the same. -/
def Obligations.CountsAreReturned : Prop :=
  ∀ s : State,
    (s.rxq.length < 65536 → exec .avail s = .next { s with
      hostResult := some (0#16 ++ BitVec.ofNat 16 s.rxq.length) }) ∧
    (s.params.txCap - s.txq.length < 65536 → exec .availw s = .next { s with
      hostResult := some (0#16 ++ BitVec.ofNat 16 (s.params.txCap - s.txq.length)) }) ∧
    (∃ v : HostField, exec .avail s = .next { s with hostResult := some (0#16 ++ v) }) ∧
    (∃ v : HostField, exec .availw s = .next { s with hostResult := some (0#16 ++ v) })

/-- R219: FLUSH completes, holds, or returns INACTIVE. -/
def Obligations.FlushWaitsForIdle : Prop :=
  ∀ s : State,
    (s.portActive = true → s.txq = [] → s.txRunning = false →
      hostHolds .flush s = false ∧
      exec .flush s = .next { s with hostResult := some 0x00000000#32 }) ∧
    (s.portActive = true → (s.txq ≠ [] ∨ s.txRunning = true) → hostHolds .flush s = true) ∧
    (s.portActive = false →
      hostHolds .flush s = false ∧
      exec .flush s = .next { s with hostResult := some 0x00040000#32 })

/-! ## Steps -/

/-- The model's choice (log 12): a step is the turn that State names first. And the input of R259
(log 19) is moved by a turn that changes nothing else. -/
def Obligations.StepTakesTheNextTurn : Prop :=
  ∀ (s : State) (t : Turn) (ts : List Turn), s.turns = t :: ts →
    step s = takeTurn t { s with turns := ts } ∧
    ∀ v, takeTurn (.otherPort v) s = .next { s with otherPortActive := v }

/-- The model's choice (log 13): a step that the rules do not enable, and a host command that
holds, changes nothing when it is run all the same. -/
def Obligations.StepsNotEnabledChangeNothing : Prop :=
  ∀ s : State,
    (s.edgeArmed = false ∨ s.edgePending = false → exec .rxedge s = .next s) ∧
    (s.rxSampling = false → exec .rxtick s = .next s) ∧
    (s.txRunning = false → exec .txtick s = .next s) ∧
    (∀ i, hostHolds i s = true → exec i s = .next s)

/-- At the Host's turn (log 12), a command that decodes and does not hold is run and is gone from the
Host's program; one that holds stays there and nothing else changes (the model's choice, log 14). -/
def Obligations.StepRunsTheHostCommand : Prop :=
  ∀ (s : State) (ts : List Turn) (c : HostCommand) (cs : List HostCommand) (i : Instr),
    s.turns = .host :: ts → s.hostProgram = c :: cs → decode (.host c) = .ok i →
    (hostHolds i { s with turns := ts } = false →
      step s = exec i { s with turns := ts, hostProgram := cs }) ∧
    (hostHolds i { s with turns := ts } = true → step s = .next { s with turns := ts })

/-- At a timer's or the edge detector's turn (log 12), the step is the decoded instruction; the
reserved event code names no step (R90), and nothing changes (log 13). -/
def Obligations.StepRunsTheEvent : Prop :=
  ∀ (s : State) (ts : List Turn) (code : BitVec 2), s.turns = .event code :: ts →
    (∀ i, decode (.event code) = .ok i → step s = exec i { s with turns := ts }) ∧
    (code = 3#2 → step s = .next { s with turns := ts })

/-- R210(a), R214, R219: which commands hold, and when. -/
def Obligations.OnlyWriteAndFlushHold : Prop :=
  ∀ (i : Instr) (s : State), hostHolds i s = true ↔
    s.portActive = true ∧
      ((∃ b, i = .write b) ∧ s.txq.length = s.params.txCap ∨
       i = .flush ∧ (s.txq ≠ [] ∨ s.txRunning = true))

/-- R210(b), R249: a word with a reserved selector, `RSV ≠ 0` or a non-zero must-be-zero argument
bit returns BAD_COMMAND and changes nothing else. -/
def Obligations.BadCommandChangesNothing : Prop :=
  ∀ (s : State) (ts : List Turn) (c : HostCommand) (cs : List HostCommand),
    s.turns = .host :: ts → s.hostProgram = c :: cs →
    ((∀ m, mustBeZero (c.word.extractLsb' 28 4) = some m → c.word &&& m ≠ 0#32) →
      step s = .next { s with
        turns := ts, hostProgram := cs, hostResult := some 0x00060000#32 })

/-! ## Encodings -/

/-- R86, R88 to R90, R94: words written out from the tables decode to their instructions. -/
def Obligations.TableWordsDecode : Prop :=
  decode (.uop 0b000#3) = .ok .startchk ∧ decode (.uop 0b100#3) = .ok .shiftin ∧
  decode (.uop 0b110#3) = .ok .final ∧ decode (.uop 0b111#3) = .error .reservedMicroOp ∧
  decode (.event 0b00#2) = .ok .txtick ∧ decode (.event 0b10#2) = .ok .rxedge ∧
  decode (.host ⟨0x10000003#32, 9600⟩) = .ok (.beginPort 3#16 9600) ∧
  decode (.host ⟨0x20000001#32, 0⟩) = .ok (.endPort true) ∧
  decode (.host ⟨0x40000041#32, 0⟩) = .ok (.write 0x41#8) ∧
  decode (.host ⟨0x40000141#32, 0⟩) = .error .nonZeroArgument ∧
  decode (.host ⟨0x90000000#32, 0⟩) = .ok .flush ∧
  decode (.host ⟨0xA0000000#32, 0⟩) = .error .reservedSelector

/-- Decoding an encoded instruction gives it back, every operand at every value. -/
def Obligations.DecodeEncodeGivesBackTheInstruction : Prop :=
  ∀ i : Instr, i.wf = true → decode (encode i) = .ok i

/-- R80, R92: the code words that decode are exactly the well-formed ones, and each has one
encoding: a decoded instruction encodes to the word it came from (and BEGIN to its baud). -/
def Obligations.EncodeDecodeGivesBackTheWord : Prop :=
  (∀ c : CodeWord, (∃ i, decode c = .ok i) ↔ c.wf = true) ∧
  (∀ (code : BitVec 3) (i : Instr), decode (.uop code) = .ok i → encode i = .uop code) ∧
  (∀ (code : BitVec 2) (i : Instr), decode (.event code) = .ok i → encode i = .event code) ∧
  (∀ (c : HostCommand) (i : Instr), decode (.host c) = .ok i →
    ∃ b, encode i = .host ⟨c.word, b⟩ ∧ ∀ code baud, i = .beginPort code baud → b = c.baud)

/-- R81, R82: each format has one code, and no other word is a code of it. -/
def Obligations.FormatCodesAreABijection : Prop :=
  ∀ (code : FormatCode) (f : FormatSpec), decodeFormat code = some f ↔ code = encodeFormat f

/-! ## The resolver and the schedule -/

/-- R112 to R118 with their ranges: no field of the timing record wraps, whatever WORD_W of R7. -/
def Obligations.TimingRecordValues : Prop :=
  ∀ (p : Params) (f : FormatSpec), 11 ≤ p.wordW → let t := timingOf p f
    let b := f.dataBits.count + (if f.parityMode = .none then 0 else 1)
    t.fmt = f ∧ t.parityMode = f.parityMode ∧
    t.bitsToSend.toNat = b ∧ 5 ≤ b ∧ b ≤ 9 ∧
    t.txShiftCount.toNat = b + f.stopBits.count ∧
    t.dataBitsMask = 2 ^ f.dataBits.count - 1 ∧
    t.parityBitMask = (if f.parityMode = .none then 0 else 2 ^ f.dataBits.count) ∧
    t.stopBitPattern = (2 ^ f.stopBits.count - 1) * 2 ^ b ∧
    t.shiftInBit = 2 ^ (b - 1) ∧
    t.schedLen = 4 + 4 * b + p.stopTicks * f.stopBits.count - 1 ∧
    (p.stopTicks = 2 → 25 ≤ t.schedLen ∧ t.schedLen ≤ 43)

/-- R120: a schedule has its CLEAR at 3 and no SHIFTIN before 7; every SHIFTIN comes three entries
after a VSAMPLE; FINAL is the last entry and no other; 111 is never written. -/
def Obligations.ScheduleIsWellShaped : Prop :=
  ∀ (p : Params) (f : FormatSpec), p.wf = true → let t := timingOf p f
    (scheduleCodes t).length = t.schedLen ∧ t.schedLen ≤ 63 ∧
    ∀ i, i < t.schedLen → ∃ m, (scheduleCodes t)[i]? = some (encodeMicroOp m) ∧
      (m = .final ↔ i + 1 = t.schedLen) ∧ (m = .clear ↔ i = 3) ∧
      (m = .startchk ↔ i < 3) ∧
      (m = .shiftin → 7 ≤ i ∧ (scheduleCodes t)[i - 3]? = some (encodeMicroOp .vsample)) ∧
      (m = .shiftin ↔ 4 ≤ i ∧ i < 4 + 4 * t.bitsToSend.toNat ∧ i % 4 = 3)

/-- R97: the schedule BEGIN builds is the expansion of the macro `SCHED <fmt>`. -/
def Obligations.ScheduleIsTheMacroExpansion : Prop :=
  ∀ (p : Params) (f : FormatSpec), p.wf = true →
    scheduleCodes (timingOf p f) = (macroSched p.stopTicks f).map encodeMicroOp

/-! ## The frame marshaller -/

/-- R140: FOLD is 1 exactly when the word has an odd number of 1 bits, for words of every width. -/
def Obligations.FoldIsOddParity : Prop :=
  ∀ (w : Nat) (v : Word), fold w v = true ↔ ((List.range w).countP fun i => v.testBit i) % 2 = 1

/-- R145: the parity of data and parity bits of every assembled frame. -/
def Obligations.FramesMeetTheirParity : Prop :=
  ∀ (p : Params) (f : FormatSpec) (byte : HostByte), 11 ≤ p.wordW → let t := timingOf p f
    let w := assemble p.wordW t false byte
    let dp := w &&& (t.dataBitsMask ||| t.parityBitMask)
    (f.parityMode = .even → fold p.wordW dp = false) ∧
    (f.parityMode = .odd → fold p.wordW dp = true) ∧
    (f.parityMode = .mark → w.testBit f.dataBits.count = true) ∧
    (f.parityMode = .space → w.testBit f.dataBits.count = false)

/-- R84, R142 to R144: bit by bit, the frame word of a byte under either polarity: data bits, LSB
first, then (after the parity bit) stop bits at the idle level, then zeros. -/
def Obligations.FrameWordLayout : Prop :=
  ∀ (p : Params) (f : FormatSpec) (byte : HostByte) (pol : Bool) (j : Nat),
    11 ≤ p.wordW →
    let t := timingOf p f
    let w := assemble p.wordW t pol byte
    (j < f.dataBits.count → w.testBit j = (byte.getLsbD j ^^ pol)) ∧
    (t.bitsToSend.toNat ≤ j → j < t.txShiftCount.toNat → w.testBit j = (true ^^ pol)) ∧
    (t.txShiftCount.toNat ≤ j → w.testBit j = false) ∧
    (j < t.txShiftCount.toNat → w.testBit j = ((assemble p.wordW t false byte).testBit j ^^ pol))

/-! ## Transmission -/

/-- R166: the waveform of one character: the start level at the dispatching tick, then bit `k` of
the word at the `k+1`-th tick after it, up to the last stop bit. -/
def Obligations.CharacterWaveform : Prop :=
  ∀ (s : State) (w : Word) (rest : List Word) (k : Nat), s.txRunning = true →
    s.txRemaining = 0#4 → s.txq = w :: rest → s.txEnabled = true → permitted s = true →
    k ≤ (timing s).txShiftCount.toNat →
    txTicks (k + 1) s = .next { s with
      txq := rest
      txd := .driven (if k = 0 then startLevel s else w.testBit (k - 1))
      txCurrentWord := w >>> k
      txRemaining := (timing s).txShiftCount - BitVec.ofNat 4 k }

/-- R220: a WRITE held on a full TXQ is released by one dispatching tick, and then enqueues behind
the words already there. -/
def Obligations.DispatchReleasesAHeldWrite : Prop :=
  ∀ (s : State) (byte : HostByte), Invariants s → s.portActive = true →
    s.txq.length = s.params.txCap → s.txRemaining = 0#4 → permitted s = true →
    exec (.write byte) s = .next s ∧
    ∃ t u, exec .txtick s = .next t ∧ t.txq.length + 1 = s.params.txCap ∧
      exec (.write byte) t = .next u ∧
      u.txq = s.txq.drop 1 ++ [assemble s.params.wordW (timing s) s.pol byte] ∧
      u.hostResult = some 0x00000001#32

/-- R72: when FLUSH completes with OK, nothing is queued, no bit of a word is left to send, and the
TX timer has stopped. -/
def Obligations.FlushMeansEverythingSent : Prop :=
  ∀ s : State, Invariants s → s.portActive = true → hostHolds .flush s = false →
    exec .flush s = .next { s with hostResult := some 0x00000000#32 } ∧
    s.txq = [] ∧ s.txRemaining = 0#4 ∧ s.txRunning = false

/-! ## Reception -/

/-- R192: after the SHIFTINs of a character's `bitsToSend` bits on a cleared accumulator, bit `j`
holds the `j`-th bit. -/
def Obligations.AccumulatorHoldsTheBitsInOrder : Prop :=
  ∀ (s : State) (c : PortConfig) (vs : List Level), 11 ≤ s.params.wordW → s.config = some c →
    c.timing = timingOf s.params c.timing.fmt → vs.length = c.timing.bitsToSend.toNat →
    s.accumulator = 0 →
    ∃ t, shiftIns vs s = .next t ∧ t.accumulator = wordOfBits vs ∧
      (∀ j, t.accumulator.testBit j = vs.getD j false)

/-- R193: a character whose samples are those of ASSEMBLE's frame, in any format and under either
polarity, is pushed as data and parity bits, the receiver is idle and armed again, and a READ of it
returns the byte cut to `dataBits`. -/
def Obligations.ReceiverRoundTrip : Prop :=
  ∀ (s : State) (c : PortConfig) (byte : HostByte), Invariants s → s.config = some c →
    s.rxSampling = true → s.scheduleIndex = 0#6 → s.rxq.length < s.params.rxCap →
    let frame := assembleLogical s.params.wordW c.timing byte
    let w := frame &&& (c.timing.dataBitsMask ||| c.timing.parityBitMask)
    ∃ t, rxSamples (idealSamples c.timing frame) s = .next t ∧
      t.rxq = s.rxq ++ [w] ∧ t.rxTrace = s.rxTrace ++ [.pushed w] ∧
      t.rxSampling = false ∧ t.edgeArmed = true ∧
      (s.rxq = [] → exec .read t = .next { t with
        rxq := []
        hostResult := some (0#16 ++ BitVec.ofNat 16 (byte.toNat &&& c.timing.dataBitsMask)) })

/-- R193 with R124 and R166: the samples of ReceiverRoundTrip are the waveform the transmitter drives
for the same byte. RX tick `i` of those that read the pin falls in the `i / 4`-th bit after the
dispatching TX tick, where `txd` is the sample, at the pin's level. -/
def Obligations.IdealSamplesAreTheWaveform : Prop :=
  ∀ (s : State) (c : PortConfig) (byte : HostByte) (rest : List Word) (i : Nat),
    s.params.wf = true → s.config = some c → c.timing = timingOf s.params c.timing.fmt →
    s.txRunning = true → s.txRemaining = 0#4 →
    s.txq = assemble s.params.wordW c.timing s.pol byte :: rest →
    s.txEnabled = true → permitted s = true → i < c.timing.schedLen → i % 4 ≠ 3 →
    ∃ t, txTicks (i / 4 + 1) s = .next t ∧
      t.txd = .driven (idealSample (assembleLogical s.params.wordW c.timing byte) i ^^ s.pol)

/-- R194, R294: whatever the line does, sampling ends within the ticks the schedule has left, and
the edge detector is armed. -/
def Obligations.SamplingEndsWithinTheSchedule : Prop :=
  ∀ (s : State) (samples : List Level), Invariants s → s.rxSampling = true →
    (timing s).schedLen ≤ s.scheduleIndex.toNat + samples.length →
    ∃ t, rxSamples samples s = .next t ∧ t.rxSampling = false ∧ t.edgeArmed = true

/-- R253: RXEDGE and RXTICK are never enabled together. -/
def Obligations.EdgeAndSampleTickExclusive : Prop :=
  ∀ s : State, Invariants s → ¬(rxedgeEnabled s = true ∧ s.rxSampling = true)

/-! ## The whole machine -/

/-- The invariants hold after construction, for every parameter R7 allows. -/
def Obligations.ConstructionMeetsTheInvariants : Prop :=
  ∀ (p : Params) (pol rxd cts other : Bool), p.wf = true →
    Invariants (State.construct p pol rxd cts other) ∧ WordsFit (State.construct p pol rxd cts other)

/-- R53: every step of every agent keeps the invariants I1 to I9. -/
def Obligations.StepKeepsTheInvariants : Prop :=
  ∀ s t : State, Invariants s → step s = .next t → Invariants t

/-- R11, R26, R84, R85: every step keeps the word registers, FMT among them, within WORD_W bits, and
the queued words, the received words and the accumulator within the bits of the format in force. -/
def Obligations.StepKeepsWordsWithinTheFormat : Prop :=
  ∀ s t : State, Invariants s → WordsFit s → step s = .next t → WordsFit t

/-- R191, R248: from a state that meets the invariants no step faults and none is refused: every
step answers a next state. -/
def Obligations.NoStepStops : Prop :=
  ∀ s : State, Invariants s → ∃ t, step s = .next t

/-- R56: two machines that differ only in unspecified register values take the same steps, and
still differ only in values not yet written: no step reads one. -/
def Obligations.UnspecifiedValuesAreNeverRead : Prop :=
  ∀ a b t : State, Invariants a → SameButUnread a b → step a = .next t →
    ∃ u, step b = .next u ∧ SameButUnread t u

/-- R196: a TX tick and an RX tick give the same state in either order. -/
def Obligations.TransmitAndReceiveTicksCommute : Prop :=
  ∀ s t u : State, exec .txtick s = .next t → exec .rxtick s = .next u →
    ∃ v, exec .rxtick t = .next v ∧ exec .txtick u = .next v

/-- R51, R286: what an instruction never changes: parameters, polarity, inputs and the model's own
lists are written by no instruction, and each other element only by the writers R51 names, with
`txCurrentWord` also by BEGIN (log 6). `fcAttached` goes from 0 to 1 only. -/
def Obligations.OnlyTheNamedWritersWrite : Prop :=
  ∀ (i : Instr) (s t : State), exec i s = .next t →
    (t.params = s.params ∧ t.pol = s.pol ∧ t.rxd = s.rxd ∧ t.cts = s.cts ∧
      t.otherPortActive = s.otherPortActive ∧ t.hostProgram = s.hostProgram ∧
      t.turns = s.turns) ∧
    ((∀ code baud, i ≠ .beginPort code baud) →
      t.config = s.config ∧ t.sched = s.sched ∧
      (agentOf i ≠ .txTimer → t.txCurrentWord = s.txCurrentWord) ∧
      (agentOf i ≠ .rxTimer → t.accumulator = s.accumulator ∧
        t.lastSampledLevel = s.lastSampledLevel) ∧
      (agentOf i ≠ .rxTimer → agentOf i ≠ .rxEdge → t.scheduleIndex = s.scheduleIndex) ∧
      ((∀ r, i ≠ .endPort r) →
        t.portActive = s.portActive ∧ t.txEnabled = s.txEnabled ∧
        (agentOf i ≠ .txTimer → t.txRemaining = s.txRemaining ∧ t.txd = s.txd) ∧
        (agentOf i ≠ .txTimer → (∀ b, i ≠ .write b) → t.txRunning = s.txRunning) ∧
        (agentOf i ≠ .rxTimer → agentOf i ≠ .rxEdge →
          t.rxSampling = s.rxSampling ∧ t.edgeArmed = s.edgeArmed ∧
          t.edgePending = s.edgePending)) ∧
      (agentOf i ≠ .txTimer → (∀ b, i ≠ .write b) → t.txq = s.txq) ∧
      (agentOf i ≠ .rxTimer → i ≠ .read → t.rxq = s.rxq)) ∧
    (i ≠ .attachfc → t.fcAttached = s.fcAttached) ∧
    (s.fcAttached = true → t.fcAttached = true) ∧
    (agentOf i ≠ .rxTimer → t.rxTrace = s.rxTrace) ∧
    (agentOf i ≠ .host → t.hostResult = s.hostResult)

/-! ## Timing -/

/-- R291 for one stop bit: while the clock ratio stays within the data bound and the stop bound, all
three samples of every bit, and the FINAL sample, fall inside their bits. -/
def Obligations.SamplesFallInsideTheirBits : Prop :=
  ∀ (p : Params) (f : FormatSpec) (T r : Rat), p.stopTicks = 2 → f.stopBits = .one → 0 < T →
    let b := bitCount f
    (b + 1 : Rat) / (b + 5 / 4) ≤ r → r ≤ (b + 1 : Rat) / (b + 3 / 4) →
    (∀ j, j < b → ∀ i ∈ sampleIndices j,
      insideBit T j (rxTickInstant (sampleIntervalAt T r) i)) ∧
    insideBit T b (rxTickInstant (sampleIntervalAt T r) ((timingOf p f).schedLen - 1))

/-- R291: at ratio 1 the receiver is armed again `(1 + b + (2s − 1)/4) · T` after the start edge,
before the last stop bit ends. -/
def Obligations.RearmedBeforeTheNextCharacter : Prop :=
  ∀ (p : Params) (f : FormatSpec) (T : Rat), p.stopTicks = 2 → 0 < T →
    let t := timingOf p f
    let b : Rat := bitCount f
    let n : Rat := f.stopBits.count
    rearmInstant (sampleIntervalAt T 1) t.schedLen = (1 + b + (2 * n - 1) / 4) * T ∧
    rearmInstant (sampleIntervalAt T 1) t.schedLen < (1 + b + n) * T ∧
    characterTime T t = (1 + b + n) * T

/-! ## FMT -/

/-- R26, R82: a BEGIN that succeeds leaves in FMT the WORD_W low bits of the code, and in `fmt` the
format that FORMAT_DECODE reads from the code; where WORD_W bits hold the code, as they do under the
layout of R81, FMT is the code itself and `fmt` is decoded from it. That a wider code of a table is
cut to the register is the model's choice (log 1). -/
def Obligations.FormatRegistersHoldTheAcceptedCode : Prop :=
  ∀ (s : State) (code : FormatCode) (baud : Rat), baudOk s.params baud = true →
    (resolve s.params code).isSome = true → s.otherPortActive = false →
    ∃ t c, exec (.beginPort code baud) s = .next t ∧ t.config = some c ∧
      (∀ j, c.code.testBit j = (decide (j < s.params.wordW) && code.getLsbD j)) ∧
      formatDecode s.params code = some c.timing.fmt ∧
      (code.toNat < 2 ^ s.params.wordW →
        c.code = code.toNat ∧
        formatDecode s.params (BitVec.ofNat 16 c.code) = some c.timing.fmt) ∧
      (11 ≤ s.params.wordW → s.params.formatMap = .layout → code.toNat < 2 ^ s.params.wordW)
end

