-- ==== Sys2Proof/Laws/State.lean ====
section
/-! SUPPORT. The fields of State after each named operation: what it changes and what it leaves. Each
lemma holds by computation and gives simp one rewrite rule a field, so that no proof unfolds a
record update. -/

namespace Sys2Proof.Machine

@[simp] theorem startTimer_txt_fields (s : State) :
    (startTimer .txt s).params = s.params ∧
    (startTimer .txt s).pol = s.pol ∧
    (startTimer .txt s).portActive = s.portActive ∧
    (startTimer .txt s).txEnabled = s.txEnabled ∧
    (startTimer .txt s).config = s.config ∧
    (startTimer .txt s).sched = s.sched ∧
    (startTimer .txt s).fcAttached = s.fcAttached ∧
    (startTimer .txt s).txCurrentWord = s.txCurrentWord ∧
    (startTimer .txt s).txRemaining = s.txRemaining ∧
    (startTimer .txt s).txRunning = true ∧
    (startTimer .txt s).scheduleIndex = s.scheduleIndex ∧
    (startTimer .txt s).accumulator = s.accumulator ∧
    (startTimer .txt s).lastSampledLevel = s.lastSampledLevel ∧
    (startTimer .txt s).rxSampling = s.rxSampling ∧
    (startTimer .txt s).edgeArmed = s.edgeArmed ∧
    (startTimer .txt s).edgePending = s.edgePending ∧
    (startTimer .txt s).txq = s.txq ∧
    (startTimer .txt s).rxq = s.rxq ∧
    (startTimer .txt s).txd = s.txd ∧
    (startTimer .txt s).rxd = s.rxd ∧
    (startTimer .txt s).cts = s.cts ∧
    (startTimer .txt s).rxTrace = s.rxTrace ∧
    (startTimer .txt s).otherPortActive = s.otherPortActive ∧
    (startTimer .txt s).hostResult = s.hostResult ∧
    (startTimer .txt s).hostProgram = s.hostProgram ∧
    (startTimer .txt s).turns = s.turns ∧
    (startTimer .txt s).draws = s.draws := by
  and_intros <;> rfl

@[simp] theorem startTimer_rxt_fields (s : State) :
    (startTimer .rxt s).params = s.params ∧
    (startTimer .rxt s).pol = s.pol ∧
    (startTimer .rxt s).portActive = s.portActive ∧
    (startTimer .rxt s).txEnabled = s.txEnabled ∧
    (startTimer .rxt s).config = s.config ∧
    (startTimer .rxt s).sched = s.sched ∧
    (startTimer .rxt s).fcAttached = s.fcAttached ∧
    (startTimer .rxt s).txCurrentWord = s.txCurrentWord ∧
    (startTimer .rxt s).txRemaining = s.txRemaining ∧
    (startTimer .rxt s).txRunning = s.txRunning ∧
    (startTimer .rxt s).scheduleIndex = s.scheduleIndex ∧
    (startTimer .rxt s).accumulator = s.accumulator ∧
    (startTimer .rxt s).lastSampledLevel = s.lastSampledLevel ∧
    (startTimer .rxt s).rxSampling = true ∧
    (startTimer .rxt s).edgeArmed = s.edgeArmed ∧
    (startTimer .rxt s).edgePending = s.edgePending ∧
    (startTimer .rxt s).txq = s.txq ∧
    (startTimer .rxt s).rxq = s.rxq ∧
    (startTimer .rxt s).txd = s.txd ∧
    (startTimer .rxt s).rxd = s.rxd ∧
    (startTimer .rxt s).cts = s.cts ∧
    (startTimer .rxt s).rxTrace = s.rxTrace ∧
    (startTimer .rxt s).otherPortActive = s.otherPortActive ∧
    (startTimer .rxt s).hostResult = s.hostResult ∧
    (startTimer .rxt s).hostProgram = s.hostProgram ∧
    (startTimer .rxt s).turns = s.turns ∧
    (startTimer .rxt s).draws = s.draws := by
  and_intros <;> rfl

@[simp] theorem stopTimer_txt_fields (s : State) :
    (stopTimer .txt s).params = s.params ∧
    (stopTimer .txt s).pol = s.pol ∧
    (stopTimer .txt s).portActive = s.portActive ∧
    (stopTimer .txt s).txEnabled = s.txEnabled ∧
    (stopTimer .txt s).config = s.config ∧
    (stopTimer .txt s).sched = s.sched ∧
    (stopTimer .txt s).fcAttached = s.fcAttached ∧
    (stopTimer .txt s).txCurrentWord = s.txCurrentWord ∧
    (stopTimer .txt s).txRemaining = s.txRemaining ∧
    (stopTimer .txt s).txRunning = false ∧
    (stopTimer .txt s).scheduleIndex = s.scheduleIndex ∧
    (stopTimer .txt s).accumulator = s.accumulator ∧
    (stopTimer .txt s).lastSampledLevel = s.lastSampledLevel ∧
    (stopTimer .txt s).rxSampling = s.rxSampling ∧
    (stopTimer .txt s).edgeArmed = s.edgeArmed ∧
    (stopTimer .txt s).edgePending = s.edgePending ∧
    (stopTimer .txt s).txq = s.txq ∧
    (stopTimer .txt s).rxq = s.rxq ∧
    (stopTimer .txt s).txd = s.txd ∧
    (stopTimer .txt s).rxd = s.rxd ∧
    (stopTimer .txt s).cts = s.cts ∧
    (stopTimer .txt s).rxTrace = s.rxTrace ∧
    (stopTimer .txt s).otherPortActive = s.otherPortActive ∧
    (stopTimer .txt s).hostResult = s.hostResult ∧
    (stopTimer .txt s).hostProgram = s.hostProgram ∧
    (stopTimer .txt s).turns = s.turns ∧
    (stopTimer .txt s).draws = s.draws := by
  and_intros <;> rfl

@[simp] theorem stopTimer_rxt_fields (s : State) :
    (stopTimer .rxt s).params = s.params ∧
    (stopTimer .rxt s).pol = s.pol ∧
    (stopTimer .rxt s).portActive = s.portActive ∧
    (stopTimer .rxt s).txEnabled = s.txEnabled ∧
    (stopTimer .rxt s).config = s.config ∧
    (stopTimer .rxt s).sched = s.sched ∧
    (stopTimer .rxt s).fcAttached = s.fcAttached ∧
    (stopTimer .rxt s).txCurrentWord = s.txCurrentWord ∧
    (stopTimer .rxt s).txRemaining = s.txRemaining ∧
    (stopTimer .rxt s).txRunning = s.txRunning ∧
    (stopTimer .rxt s).scheduleIndex = s.scheduleIndex ∧
    (stopTimer .rxt s).accumulator = s.accumulator ∧
    (stopTimer .rxt s).lastSampledLevel = s.lastSampledLevel ∧
    (stopTimer .rxt s).rxSampling = false ∧
    (stopTimer .rxt s).edgeArmed = s.edgeArmed ∧
    (stopTimer .rxt s).edgePending = s.edgePending ∧
    (stopTimer .rxt s).txq = s.txq ∧
    (stopTimer .rxt s).rxq = s.rxq ∧
    (stopTimer .rxt s).txd = s.txd ∧
    (stopTimer .rxt s).rxd = s.rxd ∧
    (stopTimer .rxt s).cts = s.cts ∧
    (stopTimer .rxt s).rxTrace = s.rxTrace ∧
    (stopTimer .rxt s).otherPortActive = s.otherPortActive ∧
    (stopTimer .rxt s).hostResult = s.hostResult ∧
    (stopTimer .rxt s).hostProgram = s.hostProgram ∧
    (stopTimer .rxt s).turns = s.turns ∧
    (stopTimer .rxt s).draws = s.draws := by
  and_intros <;> rfl

@[simp] theorem armEdge_fields (s : State) :
    (armEdge s).params = s.params ∧
    (armEdge s).pol = s.pol ∧
    (armEdge s).portActive = s.portActive ∧
    (armEdge s).txEnabled = s.txEnabled ∧
    (armEdge s).config = s.config ∧
    (armEdge s).sched = s.sched ∧
    (armEdge s).fcAttached = s.fcAttached ∧
    (armEdge s).txCurrentWord = s.txCurrentWord ∧
    (armEdge s).txRemaining = s.txRemaining ∧
    (armEdge s).txRunning = s.txRunning ∧
    (armEdge s).scheduleIndex = s.scheduleIndex ∧
    (armEdge s).accumulator = s.accumulator ∧
    (armEdge s).lastSampledLevel = s.lastSampledLevel ∧
    (armEdge s).rxSampling = s.rxSampling ∧
    (armEdge s).edgeArmed = true ∧
    (armEdge s).edgePending = (drawsOnArm s && Config.freeBit s.draws) ∧
    (armEdge s).txq = s.txq ∧
    (armEdge s).rxq = s.rxq ∧
    (armEdge s).txd = s.txd ∧
    (armEdge s).rxd = s.rxd ∧
    (armEdge s).cts = s.cts ∧
    (armEdge s).rxTrace = s.rxTrace ∧
    (armEdge s).otherPortActive = s.otherPortActive ∧
    (armEdge s).hostResult = s.hostResult ∧
    (armEdge s).hostProgram = s.hostProgram ∧
    (armEdge s).turns = s.turns ∧
    (armEdge s).draws = (if drawsOnArm s then s.draws + 1 else s.draws) := by
  and_intros <;> rfl

@[simp] theorem disarmEdge_fields (s : State) :
    (disarmEdge s).params = s.params ∧
    (disarmEdge s).pol = s.pol ∧
    (disarmEdge s).portActive = s.portActive ∧
    (disarmEdge s).txEnabled = s.txEnabled ∧
    (disarmEdge s).config = s.config ∧
    (disarmEdge s).sched = s.sched ∧
    (disarmEdge s).fcAttached = s.fcAttached ∧
    (disarmEdge s).txCurrentWord = s.txCurrentWord ∧
    (disarmEdge s).txRemaining = s.txRemaining ∧
    (disarmEdge s).txRunning = s.txRunning ∧
    (disarmEdge s).scheduleIndex = s.scheduleIndex ∧
    (disarmEdge s).accumulator = s.accumulator ∧
    (disarmEdge s).lastSampledLevel = s.lastSampledLevel ∧
    (disarmEdge s).rxSampling = s.rxSampling ∧
    (disarmEdge s).edgeArmed = false ∧
    (disarmEdge s).edgePending = false ∧
    (disarmEdge s).txq = s.txq ∧
    (disarmEdge s).rxq = s.rxq ∧
    (disarmEdge s).txd = s.txd ∧
    (disarmEdge s).rxd = s.rxd ∧
    (disarmEdge s).cts = s.cts ∧
    (disarmEdge s).rxTrace = s.rxTrace ∧
    (disarmEdge s).otherPortActive = s.otherPortActive ∧
    (disarmEdge s).hostResult = s.hostResult ∧
    (disarmEdge s).hostProgram = s.hostProgram ∧
    (disarmEdge s).turns = s.turns ∧
    (disarmEdge s).draws = s.draws := by
  and_intros <;> rfl

@[simp] theorem pushTx_fields (w : Word) (s : State) :
    (pushTx w s).params = s.params ∧
    (pushTx w s).pol = s.pol ∧
    (pushTx w s).portActive = s.portActive ∧
    (pushTx w s).txEnabled = s.txEnabled ∧
    (pushTx w s).config = s.config ∧
    (pushTx w s).sched = s.sched ∧
    (pushTx w s).fcAttached = s.fcAttached ∧
    (pushTx w s).txCurrentWord = s.txCurrentWord ∧
    (pushTx w s).txRemaining = s.txRemaining ∧
    (pushTx w s).txRunning = s.txRunning ∧
    (pushTx w s).scheduleIndex = s.scheduleIndex ∧
    (pushTx w s).accumulator = s.accumulator ∧
    (pushTx w s).lastSampledLevel = s.lastSampledLevel ∧
    (pushTx w s).rxSampling = s.rxSampling ∧
    (pushTx w s).edgeArmed = s.edgeArmed ∧
    (pushTx w s).edgePending = s.edgePending ∧
    (pushTx w s).txq = s.txq ++ [w] ∧
    (pushTx w s).rxq = s.rxq ∧
    (pushTx w s).txd = s.txd ∧
    (pushTx w s).rxd = s.rxd ∧
    (pushTx w s).cts = s.cts ∧
    (pushTx w s).rxTrace = s.rxTrace ∧
    (pushTx w s).otherPortActive = s.otherPortActive ∧
    (pushTx w s).hostResult = s.hostResult ∧
    (pushTx w s).hostProgram = s.hostProgram ∧
    (pushTx w s).turns = s.turns ∧
    (pushTx w s).draws = s.draws := by
  and_intros <;> rfl

@[simp] theorem pushRx_fields (w : Word) (s : State) :
    (pushRx w s).params = s.params ∧
    (pushRx w s).pol = s.pol ∧
    (pushRx w s).portActive = s.portActive ∧
    (pushRx w s).txEnabled = s.txEnabled ∧
    (pushRx w s).config = s.config ∧
    (pushRx w s).sched = s.sched ∧
    (pushRx w s).fcAttached = s.fcAttached ∧
    (pushRx w s).txCurrentWord = s.txCurrentWord ∧
    (pushRx w s).txRemaining = s.txRemaining ∧
    (pushRx w s).txRunning = s.txRunning ∧
    (pushRx w s).scheduleIndex = s.scheduleIndex ∧
    (pushRx w s).accumulator = s.accumulator ∧
    (pushRx w s).lastSampledLevel = s.lastSampledLevel ∧
    (pushRx w s).rxSampling = s.rxSampling ∧
    (pushRx w s).edgeArmed = s.edgeArmed ∧
    (pushRx w s).edgePending = s.edgePending ∧
    (pushRx w s).txq = s.txq ∧
    (pushRx w s).rxq = s.rxq ++ [w] ∧
    (pushRx w s).txd = s.txd ∧
    (pushRx w s).rxd = s.rxd ∧
    (pushRx w s).cts = s.cts ∧
    (pushRx w s).rxTrace = s.rxTrace ∧
    (pushRx w s).otherPortActive = s.otherPortActive ∧
    (pushRx w s).hostResult = s.hostResult ∧
    (pushRx w s).hostProgram = s.hostProgram ∧
    (pushRx w s).turns = s.turns ∧
    (pushRx w s).draws = s.draws := by
  and_intros <;> rfl

@[simp] theorem clearFifos_fields (s : State) :
    (clearFifos s).params = s.params ∧
    (clearFifos s).pol = s.pol ∧
    (clearFifos s).portActive = s.portActive ∧
    (clearFifos s).txEnabled = s.txEnabled ∧
    (clearFifos s).config = s.config ∧
    (clearFifos s).sched = s.sched ∧
    (clearFifos s).fcAttached = s.fcAttached ∧
    (clearFifos s).txCurrentWord = s.txCurrentWord ∧
    (clearFifos s).txRemaining = s.txRemaining ∧
    (clearFifos s).txRunning = s.txRunning ∧
    (clearFifos s).scheduleIndex = s.scheduleIndex ∧
    (clearFifos s).accumulator = s.accumulator ∧
    (clearFifos s).lastSampledLevel = s.lastSampledLevel ∧
    (clearFifos s).rxSampling = s.rxSampling ∧
    (clearFifos s).edgeArmed = s.edgeArmed ∧
    (clearFifos s).edgePending = s.edgePending ∧
    (clearFifos s).txq = [] ∧
    (clearFifos s).rxq = [] ∧
    (clearFifos s).txd = s.txd ∧
    (clearFifos s).rxd = s.rxd ∧
    (clearFifos s).cts = s.cts ∧
    (clearFifos s).rxTrace = s.rxTrace ∧
    (clearFifos s).otherPortActive = s.otherPortActive ∧
    (clearFifos s).hostResult = s.hostResult ∧
    (clearFifos s).hostProgram = s.hostProgram ∧
    (clearFifos s).turns = s.turns ∧
    (clearFifos s).draws = s.draws := by
  and_intros <;> rfl

@[simp] theorem writeTxd_fields (v : Level) (s : State) :
    (writeTxd v s).params = s.params ∧
    (writeTxd v s).pol = s.pol ∧
    (writeTxd v s).portActive = s.portActive ∧
    (writeTxd v s).txEnabled = s.txEnabled ∧
    (writeTxd v s).config = s.config ∧
    (writeTxd v s).sched = s.sched ∧
    (writeTxd v s).fcAttached = s.fcAttached ∧
    (writeTxd v s).txCurrentWord = s.txCurrentWord ∧
    (writeTxd v s).txRemaining = s.txRemaining ∧
    (writeTxd v s).txRunning = s.txRunning ∧
    (writeTxd v s).scheduleIndex = s.scheduleIndex ∧
    (writeTxd v s).accumulator = s.accumulator ∧
    (writeTxd v s).lastSampledLevel = s.lastSampledLevel ∧
    (writeTxd v s).rxSampling = s.rxSampling ∧
    (writeTxd v s).edgeArmed = s.edgeArmed ∧
    (writeTxd v s).edgePending = s.edgePending ∧
    (writeTxd v s).txq = s.txq ∧
    (writeTxd v s).rxq = s.rxq ∧
    (writeTxd v s).txd = .driven v ∧
    (writeTxd v s).rxd = s.rxd ∧
    (writeTxd v s).cts = s.cts ∧
    (writeTxd v s).rxTrace = s.rxTrace ∧
    (writeTxd v s).otherPortActive = s.otherPortActive ∧
    (writeTxd v s).hostResult = s.hostResult ∧
    (writeTxd v s).hostProgram = s.hostProgram ∧
    (writeTxd v s).turns = s.turns ∧
    (writeTxd v s).draws = s.draws := by
  and_intros <;> rfl

@[simp] theorem releaseTxd_fields (s : State) :
    (releaseTxd s).params = s.params ∧
    (releaseTxd s).pol = s.pol ∧
    (releaseTxd s).portActive = s.portActive ∧
    (releaseTxd s).txEnabled = s.txEnabled ∧
    (releaseTxd s).config = s.config ∧
    (releaseTxd s).sched = s.sched ∧
    (releaseTxd s).fcAttached = s.fcAttached ∧
    (releaseTxd s).txCurrentWord = s.txCurrentWord ∧
    (releaseTxd s).txRemaining = s.txRemaining ∧
    (releaseTxd s).txRunning = s.txRunning ∧
    (releaseTxd s).scheduleIndex = s.scheduleIndex ∧
    (releaseTxd s).accumulator = s.accumulator ∧
    (releaseTxd s).lastSampledLevel = s.lastSampledLevel ∧
    (releaseTxd s).rxSampling = s.rxSampling ∧
    (releaseTxd s).edgeArmed = s.edgeArmed ∧
    (releaseTxd s).edgePending = s.edgePending ∧
    (releaseTxd s).txq = s.txq ∧
    (releaseTxd s).rxq = s.rxq ∧
    (releaseTxd s).txd = .released ∧
    (releaseTxd s).rxd = s.rxd ∧
    (releaseTxd s).cts = s.cts ∧
    (releaseTxd s).rxTrace = s.rxTrace ∧
    (releaseTxd s).otherPortActive = s.otherPortActive ∧
    (releaseTxd s).hostResult = s.hostResult ∧
    (releaseTxd s).hostProgram = s.hostProgram ∧
    (releaseTxd s).turns = s.turns ∧
    (releaseTxd s).draws = s.draws := by
  and_intros <;> rfl

@[simp] theorem appendTrace_fields (o : RxOutcome) (s : State) :
    (appendTrace o s).params = s.params ∧
    (appendTrace o s).pol = s.pol ∧
    (appendTrace o s).portActive = s.portActive ∧
    (appendTrace o s).txEnabled = s.txEnabled ∧
    (appendTrace o s).config = s.config ∧
    (appendTrace o s).sched = s.sched ∧
    (appendTrace o s).fcAttached = s.fcAttached ∧
    (appendTrace o s).txCurrentWord = s.txCurrentWord ∧
    (appendTrace o s).txRemaining = s.txRemaining ∧
    (appendTrace o s).txRunning = s.txRunning ∧
    (appendTrace o s).scheduleIndex = s.scheduleIndex ∧
    (appendTrace o s).accumulator = s.accumulator ∧
    (appendTrace o s).lastSampledLevel = s.lastSampledLevel ∧
    (appendTrace o s).rxSampling = s.rxSampling ∧
    (appendTrace o s).edgeArmed = s.edgeArmed ∧
    (appendTrace o s).edgePending = s.edgePending ∧
    (appendTrace o s).txq = s.txq ∧
    (appendTrace o s).rxq = s.rxq ∧
    (appendTrace o s).txd = s.txd ∧
    (appendTrace o s).rxd = s.rxd ∧
    (appendTrace o s).cts = s.cts ∧
    (appendTrace o s).rxTrace = s.rxTrace ++ [o] ∧
    (appendTrace o s).otherPortActive = s.otherPortActive ∧
    (appendTrace o s).hostResult = s.hostResult ∧
    (appendTrace o s).hostProgram = s.hostProgram ∧
    (appendTrace o s).turns = s.turns ∧
    (appendTrace o s).draws = s.draws := by
  and_intros <;> rfl

@[simp] theorem abort_fields (c : AbortCause) (s : State) :
    (abort c s).params = s.params ∧
    (abort c s).pol = s.pol ∧
    (abort c s).portActive = s.portActive ∧
    (abort c s).txEnabled = s.txEnabled ∧
    (abort c s).config = s.config ∧
    (abort c s).sched = s.sched ∧
    (abort c s).fcAttached = s.fcAttached ∧
    (abort c s).txCurrentWord = s.txCurrentWord ∧
    (abort c s).txRemaining = s.txRemaining ∧
    (abort c s).txRunning = s.txRunning ∧
    (abort c s).scheduleIndex = s.scheduleIndex ∧
    (abort c s).accumulator = s.accumulator ∧
    (abort c s).lastSampledLevel = s.lastSampledLevel ∧
    (abort c s).rxSampling = false ∧
    (abort c s).edgeArmed = true ∧
    (abort c s).edgePending = (drawsOnArm s && Config.freeBit s.draws) ∧
    (abort c s).txq = s.txq ∧
    (abort c s).rxq = s.rxq ∧
    (abort c s).txd = s.txd ∧
    (abort c s).rxd = s.rxd ∧
    (abort c s).cts = s.cts ∧
    (abort c s).rxTrace = s.rxTrace ++ [.aborted c (opIndex s)] ∧
    (abort c s).otherPortActive = s.otherPortActive ∧
    (abort c s).hostResult = s.hostResult ∧
    (abort c s).hostProgram = s.hostProgram ∧
    (abort c s).turns = s.turns ∧
    (abort c s).draws = (if drawsOnArm s then s.draws + 1 else s.draws) := by
  and_intros <;> rfl

@[simp] theorem drawCurrentWord_fields (s : State) :
    (drawCurrentWord s).params = s.params ∧
    (drawCurrentWord s).pol = s.pol ∧
    (drawCurrentWord s).portActive = s.portActive ∧
    (drawCurrentWord s).txEnabled = s.txEnabled ∧
    (drawCurrentWord s).config = s.config ∧
    (drawCurrentWord s).sched = s.sched ∧
    (drawCurrentWord s).fcAttached = s.fcAttached ∧
    (drawCurrentWord s).txCurrentWord = narrow s.params.wordW (Config.freeWord s.draws) ∧
    (drawCurrentWord s).txRemaining = s.txRemaining ∧
    (drawCurrentWord s).txRunning = s.txRunning ∧
    (drawCurrentWord s).scheduleIndex = s.scheduleIndex ∧
    (drawCurrentWord s).accumulator = s.accumulator ∧
    (drawCurrentWord s).lastSampledLevel = s.lastSampledLevel ∧
    (drawCurrentWord s).rxSampling = s.rxSampling ∧
    (drawCurrentWord s).edgeArmed = s.edgeArmed ∧
    (drawCurrentWord s).edgePending = s.edgePending ∧
    (drawCurrentWord s).txq = s.txq ∧
    (drawCurrentWord s).rxq = s.rxq ∧
    (drawCurrentWord s).txd = s.txd ∧
    (drawCurrentWord s).rxd = s.rxd ∧
    (drawCurrentWord s).cts = s.cts ∧
    (drawCurrentWord s).rxTrace = s.rxTrace ∧
    (drawCurrentWord s).otherPortActive = s.otherPortActive ∧
    (drawCurrentWord s).hostResult = s.hostResult ∧
    (drawCurrentWord s).hostProgram = s.hostProgram ∧
    (drawCurrentWord s).turns = s.turns ∧
    (drawCurrentWord s).draws = s.draws + 1 := by
  and_intros <;> rfl

@[simp] theorem complete_fields (st : Status) (v : HostField) (s : State) :
    (complete st v s).params = s.params ∧
    (complete st v s).pol = s.pol ∧
    (complete st v s).portActive = s.portActive ∧
    (complete st v s).txEnabled = s.txEnabled ∧
    (complete st v s).config = s.config ∧
    (complete st v s).sched = s.sched ∧
    (complete st v s).fcAttached = s.fcAttached ∧
    (complete st v s).txCurrentWord = s.txCurrentWord ∧
    (complete st v s).txRemaining = s.txRemaining ∧
    (complete st v s).txRunning = s.txRunning ∧
    (complete st v s).scheduleIndex = s.scheduleIndex ∧
    (complete st v s).accumulator = s.accumulator ∧
    (complete st v s).lastSampledLevel = s.lastSampledLevel ∧
    (complete st v s).rxSampling = s.rxSampling ∧
    (complete st v s).edgeArmed = s.edgeArmed ∧
    (complete st v s).edgePending = s.edgePending ∧
    (complete st v s).txq = s.txq ∧
    (complete st v s).rxq = s.rxq ∧
    (complete st v s).txd = s.txd ∧
    (complete st v s).rxd = s.rxd ∧
    (complete st v s).cts = s.cts ∧
    (complete st v s).rxTrace = s.rxTrace ∧
    (complete st v s).otherPortActive = s.otherPortActive ∧
    (complete st v s).hostResult = some (resultWord st v) ∧
    (complete st v s).hostProgram = s.hostProgram ∧
    (complete st v s).turns = s.turns ∧
    (complete st v s).draws = s.draws := by
  and_intros <;> rfl

@[simp] theorem lineMove_fields (v : Level) (s : State) :
    (lineMove v s).params = s.params ∧
    (lineMove v s).pol = s.pol ∧
    (lineMove v s).portActive = s.portActive ∧
    (lineMove v s).txEnabled = s.txEnabled ∧
    (lineMove v s).config = s.config ∧
    (lineMove v s).sched = s.sched ∧
    (lineMove v s).fcAttached = s.fcAttached ∧
    (lineMove v s).txCurrentWord = s.txCurrentWord ∧
    (lineMove v s).txRemaining = s.txRemaining ∧
    (lineMove v s).txRunning = s.txRunning ∧
    (lineMove v s).scheduleIndex = s.scheduleIndex ∧
    (lineMove v s).accumulator = s.accumulator ∧
    (lineMove v s).lastSampledLevel = s.lastSampledLevel ∧
    (lineMove v s).rxSampling = s.rxSampling ∧
    (lineMove v s).edgeArmed = s.edgeArmed ∧
    (lineMove v s).edgePending = (s.edgePending || (s.edgeArmed && isStartTransition s s.rxd v)) ∧
    (lineMove v s).txq = s.txq ∧
    (lineMove v s).rxq = s.rxq ∧
    (lineMove v s).txd = s.txd ∧
    (lineMove v s).rxd = v ∧
    (lineMove v s).cts = s.cts ∧
    (lineMove v s).rxTrace = s.rxTrace ∧
    (lineMove v s).otherPortActive = s.otherPortActive ∧
    (lineMove v s).hostResult = s.hostResult ∧
    (lineMove v s).hostProgram = s.hostProgram ∧
    (lineMove v s).turns = s.turns ∧
    (lineMove v s).draws = s.draws := by
  and_intros <;> rfl

@[simp] theorem ctsMove_fields (v : Level) (s : State) :
    (ctsMove v s).params = s.params ∧
    (ctsMove v s).pol = s.pol ∧
    (ctsMove v s).portActive = s.portActive ∧
    (ctsMove v s).txEnabled = s.txEnabled ∧
    (ctsMove v s).config = s.config ∧
    (ctsMove v s).sched = s.sched ∧
    (ctsMove v s).fcAttached = s.fcAttached ∧
    (ctsMove v s).txCurrentWord = s.txCurrentWord ∧
    (ctsMove v s).txRemaining = s.txRemaining ∧
    (ctsMove v s).txRunning = s.txRunning ∧
    (ctsMove v s).scheduleIndex = s.scheduleIndex ∧
    (ctsMove v s).accumulator = s.accumulator ∧
    (ctsMove v s).lastSampledLevel = s.lastSampledLevel ∧
    (ctsMove v s).rxSampling = s.rxSampling ∧
    (ctsMove v s).edgeArmed = s.edgeArmed ∧
    (ctsMove v s).edgePending = s.edgePending ∧
    (ctsMove v s).txq = s.txq ∧
    (ctsMove v s).rxq = s.rxq ∧
    (ctsMove v s).txd = s.txd ∧
    (ctsMove v s).rxd = s.rxd ∧
    (ctsMove v s).cts = v ∧
    (ctsMove v s).rxTrace = s.rxTrace ∧
    (ctsMove v s).otherPortActive = s.otherPortActive ∧
    (ctsMove v s).hostResult = s.hostResult ∧
    (ctsMove v s).hostProgram = s.hostProgram ∧
    (ctsMove v s).turns = s.turns ∧
    (ctsMove v s).draws = s.draws := by
  and_intros <;> rfl

@[simp] theorem otherPortMove_fields (v : Bool) (s : State) :
    (otherPortMove v s).params = s.params ∧
    (otherPortMove v s).pol = s.pol ∧
    (otherPortMove v s).portActive = s.portActive ∧
    (otherPortMove v s).txEnabled = s.txEnabled ∧
    (otherPortMove v s).config = s.config ∧
    (otherPortMove v s).sched = s.sched ∧
    (otherPortMove v s).fcAttached = s.fcAttached ∧
    (otherPortMove v s).txCurrentWord = s.txCurrentWord ∧
    (otherPortMove v s).txRemaining = s.txRemaining ∧
    (otherPortMove v s).txRunning = s.txRunning ∧
    (otherPortMove v s).scheduleIndex = s.scheduleIndex ∧
    (otherPortMove v s).accumulator = s.accumulator ∧
    (otherPortMove v s).lastSampledLevel = s.lastSampledLevel ∧
    (otherPortMove v s).rxSampling = s.rxSampling ∧
    (otherPortMove v s).edgeArmed = s.edgeArmed ∧
    (otherPortMove v s).edgePending = s.edgePending ∧
    (otherPortMove v s).txq = s.txq ∧
    (otherPortMove v s).rxq = s.rxq ∧
    (otherPortMove v s).txd = s.txd ∧
    (otherPortMove v s).rxd = s.rxd ∧
    (otherPortMove v s).cts = s.cts ∧
    (otherPortMove v s).rxTrace = s.rxTrace ∧
    (otherPortMove v s).otherPortActive = v ∧
    (otherPortMove v s).hostResult = s.hostResult ∧
    (otherPortMove v s).hostProgram = s.hostProgram ∧
    (otherPortMove v s).turns = s.turns ∧
    (otherPortMove v s).draws = s.draws := by
  and_intros <;> rfl

@[simp] theorem advanceIndex_fields (s : State) :
    (advanceIndex s).params = s.params ∧
    (advanceIndex s).pol = s.pol ∧
    (advanceIndex s).portActive = s.portActive ∧
    (advanceIndex s).txEnabled = s.txEnabled ∧
    (advanceIndex s).config = s.config ∧
    (advanceIndex s).sched = s.sched ∧
    (advanceIndex s).fcAttached = s.fcAttached ∧
    (advanceIndex s).txCurrentWord = s.txCurrentWord ∧
    (advanceIndex s).txRemaining = s.txRemaining ∧
    (advanceIndex s).txRunning = s.txRunning ∧
    (advanceIndex s).scheduleIndex = s.scheduleIndex + 1#6 ∧
    (advanceIndex s).accumulator = s.accumulator ∧
    (advanceIndex s).lastSampledLevel = s.lastSampledLevel ∧
    (advanceIndex s).rxSampling = s.rxSampling ∧
    (advanceIndex s).edgeArmed = s.edgeArmed ∧
    (advanceIndex s).edgePending = s.edgePending ∧
    (advanceIndex s).txq = s.txq ∧
    (advanceIndex s).rxq = s.rxq ∧
    (advanceIndex s).txd = s.txd ∧
    (advanceIndex s).rxd = s.rxd ∧
    (advanceIndex s).cts = s.cts ∧
    (advanceIndex s).rxTrace = s.rxTrace ∧
    (advanceIndex s).otherPortActive = s.otherPortActive ∧
    (advanceIndex s).hostResult = s.hostResult ∧
    (advanceIndex s).hostProgram = s.hostProgram ∧
    (advanceIndex s).turns = s.turns ∧
    (advanceIndex s).draws = s.draws := by
  and_intros <;> rfl

@[simp] theorem sendBit_fields (s : State) :
    (sendBit s).params = s.params ∧
    (sendBit s).pol = s.pol ∧
    (sendBit s).portActive = s.portActive ∧
    (sendBit s).txEnabled = s.txEnabled ∧
    (sendBit s).config = s.config ∧
    (sendBit s).sched = s.sched ∧
    (sendBit s).fcAttached = s.fcAttached ∧
    (sendBit s).txCurrentWord = s.txCurrentWord >>> 1 ∧
    (sendBit s).txRemaining = s.txRemaining - 1#4 ∧
    (sendBit s).txRunning = s.txRunning ∧
    (sendBit s).scheduleIndex = s.scheduleIndex ∧
    (sendBit s).accumulator = s.accumulator ∧
    (sendBit s).lastSampledLevel = s.lastSampledLevel ∧
    (sendBit s).rxSampling = s.rxSampling ∧
    (sendBit s).edgeArmed = s.edgeArmed ∧
    (sendBit s).edgePending = s.edgePending ∧
    (sendBit s).txq = s.txq ∧
    (sendBit s).rxq = s.rxq ∧
    (sendBit s).txd = .driven (s.txCurrentWord.testBit 0) ∧
    (sendBit s).rxd = s.rxd ∧
    (sendBit s).cts = s.cts ∧
    (sendBit s).rxTrace = s.rxTrace ∧
    (sendBit s).otherPortActive = s.otherPortActive ∧
    (sendBit s).hostResult = s.hostResult ∧
    (sendBit s).hostProgram = s.hostProgram ∧
    (sendBit s).turns = s.turns ∧
    (sendBit s).draws = s.draws := by
  and_intros <;> rfl

@[simp] theorem dispatchWord_fields (w : Word) (r : List Word) (s : State) :
    (dispatchWord w r s).params = s.params ∧
    (dispatchWord w r s).pol = s.pol ∧
    (dispatchWord w r s).portActive = s.portActive ∧
    (dispatchWord w r s).txEnabled = s.txEnabled ∧
    (dispatchWord w r s).config = s.config ∧
    (dispatchWord w r s).sched = s.sched ∧
    (dispatchWord w r s).fcAttached = s.fcAttached ∧
    (dispatchWord w r s).txCurrentWord = w ∧
    (dispatchWord w r s).txRemaining = (timing s).txShiftCount ∧
    (dispatchWord w r s).txRunning = s.txRunning ∧
    (dispatchWord w r s).scheduleIndex = s.scheduleIndex ∧
    (dispatchWord w r s).accumulator = s.accumulator ∧
    (dispatchWord w r s).lastSampledLevel = s.lastSampledLevel ∧
    (dispatchWord w r s).rxSampling = s.rxSampling ∧
    (dispatchWord w r s).edgeArmed = s.edgeArmed ∧
    (dispatchWord w r s).edgePending = s.edgePending ∧
    (dispatchWord w r s).txq = r ∧
    (dispatchWord w r s).rxq = s.rxq ∧
    (dispatchWord w r s).txd = .driven (startLevel s) ∧
    (dispatchWord w r s).rxd = s.rxd ∧
    (dispatchWord w r s).cts = s.cts ∧
    (dispatchWord w r s).rxTrace = s.rxTrace ∧
    (dispatchWord w r s).otherPortActive = s.otherPortActive ∧
    (dispatchWord w r s).hostResult = s.hostResult ∧
    (dispatchWord w r s).hostProgram = s.hostProgram ∧
    (dispatchWord w r s).turns = s.turns ∧
    (dispatchWord w r s).draws = s.draws := by
  and_intros <;> rfl

@[simp] theorem goIdle_fields (s : State) :
    (goIdle s).params = s.params ∧
    (goIdle s).pol = s.pol ∧
    (goIdle s).portActive = s.portActive ∧
    (goIdle s).txEnabled = s.txEnabled ∧
    (goIdle s).config = s.config ∧
    (goIdle s).sched = s.sched ∧
    (goIdle s).fcAttached = s.fcAttached ∧
    (goIdle s).txCurrentWord = s.txCurrentWord ∧
    (goIdle s).txRemaining = s.txRemaining ∧
    (goIdle s).txRunning = false ∧
    (goIdle s).scheduleIndex = s.scheduleIndex ∧
    (goIdle s).accumulator = s.accumulator ∧
    (goIdle s).lastSampledLevel = s.lastSampledLevel ∧
    (goIdle s).rxSampling = s.rxSampling ∧
    (goIdle s).edgeArmed = s.edgeArmed ∧
    (goIdle s).edgePending = s.edgePending ∧
    (goIdle s).txq = s.txq ∧
    (goIdle s).rxq = s.rxq ∧
    (goIdle s).txd = .driven (idleLevel s) ∧
    (goIdle s).rxd = s.rxd ∧
    (goIdle s).cts = s.cts ∧
    (goIdle s).rxTrace = s.rxTrace ∧
    (goIdle s).otherPortActive = s.otherPortActive ∧
    (goIdle s).hostResult = s.hostResult ∧
    (goIdle s).hostProgram = s.hostProgram ∧
    (goIdle s).turns = s.turns ∧
    (goIdle s).draws = s.draws := by
  and_intros <;> rfl

@[simp] theorem quiesce_fields (s : State) :
    (quiesce s).params = s.params ∧
    (quiesce s).pol = s.pol ∧
    (quiesce s).portActive = s.portActive ∧
    (quiesce s).txEnabled = s.txEnabled ∧
    (quiesce s).config = s.config ∧
    (quiesce s).sched = s.sched ∧
    (quiesce s).fcAttached = s.fcAttached ∧
    (quiesce s).txCurrentWord = s.txCurrentWord ∧
    (quiesce s).txRemaining = s.txRemaining ∧
    (quiesce s).txRunning = false ∧
    (quiesce s).scheduleIndex = s.scheduleIndex ∧
    (quiesce s).accumulator = s.accumulator ∧
    (quiesce s).lastSampledLevel = s.lastSampledLevel ∧
    (quiesce s).rxSampling = false ∧
    (quiesce s).edgeArmed = false ∧
    (quiesce s).edgePending = false ∧
    (quiesce s).txq = s.txq ∧
    (quiesce s).rxq = s.rxq ∧
    (quiesce s).txd = s.txd ∧
    (quiesce s).rxd = s.rxd ∧
    (quiesce s).cts = s.cts ∧
    (quiesce s).rxTrace = s.rxTrace ∧
    (quiesce s).otherPortActive = s.otherPortActive ∧
    (quiesce s).hostResult = s.hostResult ∧
    (quiesce s).hostProgram = s.hostProgram ∧
    (quiesce s).turns = s.turns ∧
    (quiesce s).draws = s.draws := by
  and_intros <;> rfl

@[simp] theorem clearRegisters_fields (s : State) :
    (clearRegisters s).params = s.params ∧
    (clearRegisters s).pol = s.pol ∧
    (clearRegisters s).portActive = s.portActive ∧
    (clearRegisters s).txEnabled = s.txEnabled ∧
    (clearRegisters s).config = s.config ∧
    (clearRegisters s).sched = s.sched ∧
    (clearRegisters s).fcAttached = s.fcAttached ∧
    (clearRegisters s).txCurrentWord = s.txCurrentWord ∧
    (clearRegisters s).txRemaining = 0#4 ∧
    (clearRegisters s).txRunning = s.txRunning ∧
    (clearRegisters s).scheduleIndex = 0#6 ∧
    (clearRegisters s).accumulator = 0 ∧
    (clearRegisters s).lastSampledLevel = false ∧
    (clearRegisters s).rxSampling = s.rxSampling ∧
    (clearRegisters s).edgeArmed = s.edgeArmed ∧
    (clearRegisters s).edgePending = s.edgePending ∧
    (clearRegisters s).txq = s.txq ∧
    (clearRegisters s).rxq = s.rxq ∧
    (clearRegisters s).txd = s.txd ∧
    (clearRegisters s).rxd = s.rxd ∧
    (clearRegisters s).cts = s.cts ∧
    (clearRegisters s).rxTrace = s.rxTrace ∧
    (clearRegisters s).otherPortActive = s.otherPortActive ∧
    (clearRegisters s).hostResult = s.hostResult ∧
    (clearRegisters s).hostProgram = s.hostProgram ∧
    (clearRegisters s).turns = s.turns ∧
    (clearRegisters s).draws = s.draws := by
  and_intros <;> rfl

@[simp] theorem setActive_fields (v : Bool) (s : State) :
    (setActive v s).params = s.params ∧
    (setActive v s).pol = s.pol ∧
    (setActive v s).portActive = v ∧
    (setActive v s).txEnabled = v ∧
    (setActive v s).config = s.config ∧
    (setActive v s).sched = s.sched ∧
    (setActive v s).fcAttached = s.fcAttached ∧
    (setActive v s).txCurrentWord = s.txCurrentWord ∧
    (setActive v s).txRemaining = s.txRemaining ∧
    (setActive v s).txRunning = s.txRunning ∧
    (setActive v s).scheduleIndex = s.scheduleIndex ∧
    (setActive v s).accumulator = s.accumulator ∧
    (setActive v s).lastSampledLevel = s.lastSampledLevel ∧
    (setActive v s).rxSampling = s.rxSampling ∧
    (setActive v s).edgeArmed = s.edgeArmed ∧
    (setActive v s).edgePending = s.edgePending ∧
    (setActive v s).txq = s.txq ∧
    (setActive v s).rxq = s.rxq ∧
    (setActive v s).txd = s.txd ∧
    (setActive v s).rxd = s.rxd ∧
    (setActive v s).cts = s.cts ∧
    (setActive v s).rxTrace = s.rxTrace ∧
    (setActive v s).otherPortActive = s.otherPortActive ∧
    (setActive v s).hostResult = s.hostResult ∧
    (setActive v s).hostProgram = s.hostProgram ∧
    (setActive v s).turns = s.turns ∧
    (setActive v s).draws = s.draws := by
  and_intros <;> rfl

@[simp] theorem configure_fields (c : PortConfig) (s : State) :
    (configure c s).params = s.params ∧
    (configure c s).pol = s.pol ∧
    (configure c s).portActive = s.portActive ∧
    (configure c s).txEnabled = s.txEnabled ∧
    (configure c s).config = some c ∧
    (configure c s).sched = buildSched c.timing s.sched ∧
    (configure c s).fcAttached = s.fcAttached ∧
    (configure c s).txCurrentWord = s.txCurrentWord ∧
    (configure c s).txRemaining = s.txRemaining ∧
    (configure c s).txRunning = s.txRunning ∧
    (configure c s).scheduleIndex = s.scheduleIndex ∧
    (configure c s).accumulator = s.accumulator ∧
    (configure c s).lastSampledLevel = s.lastSampledLevel ∧
    (configure c s).rxSampling = s.rxSampling ∧
    (configure c s).edgeArmed = s.edgeArmed ∧
    (configure c s).edgePending = s.edgePending ∧
    (configure c s).txq = s.txq ∧
    (configure c s).rxq = s.rxq ∧
    (configure c s).txd = s.txd ∧
    (configure c s).rxd = s.rxd ∧
    (configure c s).cts = s.cts ∧
    (configure c s).rxTrace = s.rxTrace ∧
    (configure c s).otherPortActive = s.otherPortActive ∧
    (configure c s).hostResult = s.hostResult ∧
    (configure c s).hostProgram = s.hostProgram ∧
    (configure c s).turns = s.turns ∧
    (configure c s).draws = s.draws := by
  and_intros <;> rfl

@[simp] theorem activate_fields (c : PortConfig) (s : State) :
    (activate c s).params = s.params ∧
    (activate c s).pol = s.pol ∧
    (activate c s).portActive = true ∧
    (activate c s).txEnabled = true ∧
    (activate c s).config = some c ∧
    (activate c s).sched = buildSched c.timing s.sched ∧
    (activate c s).fcAttached = s.fcAttached ∧
    (activate c s).txCurrentWord = narrow s.params.wordW (Config.freeWord s.draws) ∧
    (activate c s).txRemaining = 0#4 ∧
    (activate c s).txRunning = false ∧
    (activate c s).scheduleIndex = 0#6 ∧
    (activate c s).accumulator = 0 ∧
    (activate c s).lastSampledLevel = false ∧
    (activate c s).rxSampling = false ∧
    (activate c s).edgeArmed = true ∧
    (activate c s).edgePending = (drawsOnArm s && Config.freeBit (s.draws + 1)) ∧
    (activate c s).txq = [] ∧
    (activate c s).rxq = [] ∧
    (activate c s).txd = .driven (idleLevel s) ∧
    (activate c s).rxd = s.rxd ∧
    (activate c s).cts = s.cts ∧
    (activate c s).rxTrace = s.rxTrace ∧
    (activate c s).otherPortActive = s.otherPortActive ∧
    (activate c s).hostResult = s.hostResult ∧
    (activate c s).hostProgram = s.hostProgram ∧
    (activate c s).turns = s.turns ∧
    (activate c s).draws = (if drawsOnArm s then s.draws + 1 + 1 else s.draws + 1) := by
  simp [activate, drawsOnArm, idleLevel]

@[simp] theorem deactivate_fields (r : Bool) (s : State) :
    (deactivate r s).params = s.params ∧
    (deactivate r s).pol = s.pol ∧
    (deactivate r s).portActive = false ∧
    (deactivate r s).txEnabled = false ∧
    (deactivate r s).config = s.config ∧
    (deactivate r s).sched = s.sched ∧
    (deactivate r s).fcAttached = s.fcAttached ∧
    (deactivate r s).txCurrentWord = s.txCurrentWord ∧
    (deactivate r s).txRemaining = 0#4 ∧
    (deactivate r s).txRunning = false ∧
    (deactivate r s).scheduleIndex = s.scheduleIndex ∧
    (deactivate r s).accumulator = s.accumulator ∧
    (deactivate r s).lastSampledLevel = s.lastSampledLevel ∧
    (deactivate r s).rxSampling = false ∧
    (deactivate r s).edgeArmed = false ∧
    (deactivate r s).edgePending = false ∧
    (deactivate r s).txq = s.txq ∧
    (deactivate r s).rxq = s.rxq ∧
    (deactivate r s).txd = (if r then .driven (idleLevel s) else .released) ∧
    (deactivate r s).rxd = s.rxd ∧
    (deactivate r s).cts = s.cts ∧
    (deactivate r s).rxTrace = s.rxTrace ∧
    (deactivate r s).otherPortActive = s.otherPortActive ∧
    (deactivate r s).hostResult = s.hostResult ∧
    (deactivate r s).hostProgram = s.hostProgram ∧
    (deactivate r s).turns = s.turns ∧
    (deactivate r s).draws = s.draws := by
  cases r <;> and_intros <;> rfl

end Sys2Proof.Machine
end

