-- ==== Sys2Proof/Laws/Receive.lean ====
section
/-! SUPPORT. What the receive engine can do, said once (43_receive_engine.md). -/

namespace Sys2Proof.Machine

/-- A micro-operation is the instruction of its row. -/
theorem runMicroOp_eq_exec (m : MicroOp) (s : State) : runMicroOp m s = exec m.toInstr s := by
  cases m <;> rfl

/-- Every micro-operation answers a next state. -/
theorem runMicroOp_next (m : MicroOp) (s : State) : ∃ t, runMicroOp m s = .next t := by
  cases m <;> exact ⟨_, rfl⟩

/-- RXTICK runs the micro-operation its entry holds (R182). -/
theorem execRxtick_runs {s : State} {m : MicroOp} (h : s.rxSampling = true)
    (hm : decodeMicroOp (schedEntry s s.scheduleIndex.toNat) = some m) :
    execRxtick s = runMicroOp m (advanceIndex s) := by
  simp only [execRxtick, h, if_true, hm]

/-- RXTICK on the reserved code (R191). -/
theorem execRxtick_reserved {s : State} (h : s.rxSampling = true)
    (hm : decodeMicroOp (schedEntry s s.scheduleIndex.toNat) = none) :
    execRxtick s = .fault (.reservedMicroOp s.scheduleIndex.toNat) := by
  simp only [execRxtick, h, if_true, hm]

/-- RXTICK while RXT is stopped is no step. -/
theorem execRxtick_stopped {s : State} (h : s.rxSampling = false) : execRxtick s = .next s := by
  simp [execRxtick, h]

/-- Every next state of RXTICK comes from one of these two cases. -/
theorem execRxtick_cases {s t : State} (h : execRxtick s = .next t) :
    (s.rxSampling = false ∧ t = s) ∨
    ∃ m, s.rxSampling = true ∧
      decodeMicroOp (schedEntry s s.scheduleIndex.toNat) = some m ∧
      runMicroOp m (advanceIndex s) = .next t := by
  cases hs : s.rxSampling with
  | false =>
    rw [execRxtick_stopped hs] at h
    exact .inl ⟨rfl, (Host.Outcome.next.inj h).symm⟩
  | true =>
    cases hm : decodeMicroOp (schedEntry s s.scheduleIndex.toNat) with
    | none => rw [execRxtick_reserved hs hm] at h; cases h
    | some m => rw [execRxtick_runs hs hm] at h; exact .inr ⟨m, rfl, rfl, h⟩

/-- What a micro-operation writes, whatever it does: the receive state and nothing else (R51). -/
theorem runMicroOp_frame {m : MicroOp} {s t : State} (h : runMicroOp m s = .next t) :
    t = { s with
      accumulator := t.accumulator
      lastSampledLevel := t.lastSampledLevel
      rxSampling := t.rxSampling
      edgeArmed := t.edgeArmed
      edgePending := t.edgePending
      rxq := t.rxq
      rxTrace := t.rxTrace
      draws := t.draws } := by
  cases m <;> simp only [runMicroOp, execStartchk, execClear, execVsample, execVconfirm,
    execShiftin, execStopchk, execFinal, deliver, Host.Outcome.next.injEq] at h <;> subst h <;>
    (try split) <;> (try split) <;> rfl

end Sys2Proof.Machine
end

