-- ==== Sys2Proof/Laws/Transmit.lean ====
section
/-! SUPPORT. What the transmit engine can do, said once (42_transmit_engine.md). -/

namespace Sys2Proof.Machine

/-- `blocking = not permitted` (R160). -/
theorem blocking_eq_not_permitted (s : State) : blocking s = !permitted s := by
  unfold blocking permitted
  cases s.fcAttached <;> simp [bne]

/-- The four cases of R162 to R164 for a tick with no bit in progress. -/
theorem betweenWords_cases (s : State) :
    (∃ w rest, s.txq = w :: rest ∧ s.txEnabled = true ∧ permitted s = true ∧
      betweenWords s = dispatchWord w rest s) ∨
    (permitted s = false ∧ betweenWords s = s) ∨
    ((s.txq = [] ∨ s.txEnabled = false) ∧ permitted s = true ∧ betweenWords s = goIdle s) := by
  have hb := blocking_eq_not_permitted s
  unfold betweenWords
  cases hq : s.txq with
  | nil => cases hp : permitted s <;> simp [hb, hp]
  | cons w rest => cases hp : permitted s <;> cases he : s.txEnabled <;> simp [hb, hp]

/-- Every next state of TXTICK comes from one of these cases (R165). -/
theorem execTxtick_cases {s t : State} (h : execTxtick s = .next t) :
    (s.txRunning = false ∧ t = s) ∨
    (s.txRunning = true ∧ s.txRemaining ≠ 0#4 ∧ t = sendBit s) ∨
    (s.txRunning = true ∧ s.txRemaining = 0#4 ∧ t = betweenWords s) := by
  unfold execTxtick at h
  split at h
  · next hr =>
    split at h
    · next h0 => exact .inr (.inr ⟨hr, h0, (Host.Outcome.next.inj h).symm⟩)
    · next h0 => exact .inr (.inl ⟨hr, h0, (Host.Outcome.next.inj h).symm⟩)
  · next hr => exact .inl ⟨by simpa using hr, (Host.Outcome.next.inj h).symm⟩

/-- TXTICK always answers a next state. -/
theorem execTxtick_next (s : State) : ∃ t, execTxtick s = .next t := by
  unfold execTxtick
  split <;> exact ⟨_, rfl⟩

/-- A tick with a bit in progress is case A (R161). -/
theorem execTxtick_sends {s : State} (h : s.txRunning = true) (h0 : s.txRemaining ≠ 0#4) :
    execTxtick s = .next (sendBit s) := by
  rw [execTxtick, if_pos h, if_neg h0]

/-- A tick with no bit in progress (R162 to R164). -/
theorem execTxtick_between {s : State} (h : s.txRunning = true) (h0 : s.txRemaining = 0#4) :
    execTxtick s = .next (betweenWords s) := by
  rw [execTxtick, if_pos h, if_pos h0]

/-- Case B (R162). -/
theorem betweenWords_dispatches {s : State} {w : Word} {rest : List Word} (hq : s.txq = w :: rest)
    (he : s.txEnabled = true) (hp : permitted s = true) :
    betweenWords s = dispatchWord w rest s := by
  unfold betweenWords
  rw [hq]
  simp [he, hp]

/-- Case C (R163). -/
theorem betweenWords_blocked {s : State} (hp : permitted s = false) : betweenWords s = s := by
  have hb := blocking_eq_not_permitted s
  unfold betweenWords
  cases s.txq <;> simp [hp, hb]

/-- Case D (R164). -/
theorem betweenWords_idles {s : State} (hq : s.txq = [] ∨ s.txEnabled = false)
    (hp : permitted s = true) : betweenWords s = goIdle s := by
  have hb := blocking_eq_not_permitted s
  unfold betweenWords
  rcases hq with h | h
  · rw [h]
    simp [hp, hb]
  · cases s.txq <;> simp [h, hp, hb]

/-- What TXTICK writes: the transmit state and nothing else (R51). -/
theorem execTxtick_frame {s t : State} (h : execTxtick s = .next t) :
    t = { s with
      txq := t.txq
      txd := t.txd
      txCurrentWord := t.txCurrentWord
      txRemaining := t.txRemaining
      txRunning := t.txRunning } := by
  rcases execTxtick_cases h with ⟨-, rfl⟩ | ⟨-, -, rfl⟩ | ⟨-, -, rfl⟩
  · rfl
  · rfl
  · rcases betweenWords_cases s with ⟨w, r, -, -, -, e⟩ | ⟨-, e⟩ | ⟨-, -, e⟩ <;> rw [e] <;> rfl

end Sys2Proof.Machine
end

