-- ==== Sys2Proof/Laws/Agents.lean ====
section
/-! SUPPORT. What a turn can do, said once (00_scope.md R8, R9). -/

namespace Sys2Proof.Machine

/-! ## The Host's turn -/

theorem hostTurn_idle {s : State} (h : s.hostProgram = []) : hostTurn s = .next s := by
  unfold hostTurn
  rw [h]

theorem hostTurn_bad {s : State} {c : HostCommand} {rest : List HostCommand} {e : DecodeError}
    (h : s.hostProgram = c :: rest) (hd : decodeHost c = .error e) :
    hostTurn s = .next (complete .badCommand 0#16 { s with hostProgram := rest }) := by
  unfold hostTurn
  rw [h]
  simp only [hd]

theorem hostTurn_held {s : State} {c : HostCommand} {rest : List HostCommand} {i : Instr}
    (h : s.hostProgram = c :: rest) (hd : decodeHost c = .ok i) (hh : hostHolds i s = true) :
    hostTurn s = .next s := by
  unfold hostTurn
  rw [h]
  simp only [hd, hh, if_true]

theorem hostTurn_runs {s : State} {c : HostCommand} {rest : List HostCommand} {i : Instr}
    (h : s.hostProgram = c :: rest) (hd : decodeHost c = .ok i) (hh : hostHolds i s = false) :
    hostTurn s = exec i { s with hostProgram := rest } := by
  unfold hostTurn
  rw [h]
  simp only [hd, hh, Bool.false_eq_true, if_false]

/-- What a Host's turn does, in every case. -/
theorem hostTurn_cases (s : State) :
    (s.hostProgram = [] ∧ hostTurn s = .next s) ∨
    ∃ c rest, s.hostProgram = c :: rest ∧
      ((∃ e, decodeHost c = .error e ∧
          hostTurn s = .next (complete .badCommand 0#16 { s with hostProgram := rest })) ∨
        ∃ i, decodeHost c = .ok i ∧
          ((hostHolds i s = true ∧ hostTurn s = .next s) ∨
            (hostHolds i s = false ∧ hostTurn s = exec i { s with hostProgram := rest }))) := by
  cases h : s.hostProgram with
  | nil => exact .inl ⟨rfl, hostTurn_idle h⟩
  | cons c rest =>
    refine .inr ⟨c, rest, rfl, ?_⟩
    cases hd : decodeHost c with
    | error e => exact .inl ⟨e, rfl, hostTurn_bad h hd⟩
    | ok i =>
      cases hh : hostHolds i s with
      | true => exact .inr ⟨i, rfl, .inl ⟨hh, hostTurn_held h hd hh⟩⟩
      | false => exact .inr ⟨i, rfl, .inr ⟨hh, hostTurn_runs h hd hh⟩⟩

/-- Only host commands decode from host words (R89). -/
theorem decodeHost_agent {c : HostCommand} {i : Instr} (h : decodeHost c = .ok i) :
    agentOf i = .host := by
  unfold decodeHost decodeSelector withoutArgument at h
  repeat' split at h
  all_goals first | (cases h; rfl) | cases h

/-- A host command always answers a next state. -/
theorem exec_host_next {i : Instr} (s : State) (h : agentOf i = .host) :
    ∃ t, exec i s = .next t := by
  cases i <;> simp only [agentOf, reduceCtorEq] at h <;>
    simp only [exec, execBeginPort, execEndPort, execAttachfc, execWrite, execRead, execPeek,
      execAvail, execAvailw, execFlush] <;>
    repeat' split
  all_goals exact ⟨_, rfl⟩

/-! ## The turns of the timers and the edge detector -/

theorem decodeEvent_cases {code : BitVec 2} {i : Instr} (h : decodeEvent code = .ok i) :
    i = .txtick ∨ i = .rxtick ∨ i = .rxedge := by
  unfold decodeEvent at h
  split at h <;> cases h <;> simp

theorem eventTurn_runs {code : BitVec 2} {i : Instr} (h : decodeEvent code = .ok i) (s : State) :
    eventTurn code s = exec i s := by
  simp only [eventTurn, h]

theorem eventTurn_reserved {code : BitVec 2} {e : DecodeError} (h : decodeEvent code = .error e)
    (s : State) : eventTurn code s = .next s := by
  simp only [eventTurn, h]

/-- RXEDGE in its two cases (R180). -/
theorem execRxedge_cases {s t : State} (h : execRxedge s = .next t) :
    (s.edgeArmed = true ∧ s.edgePending = true ∧
      t = startTimer .rxt { disarmEdge s with scheduleIndex := 0#6 }) ∨
    (rxedgeEnabled s = false ∧ t = s) := by
  unfold execRxedge at h
  split at h
  · next he =>
    simp only [rxedgeEnabled, Bool.and_eq_true] at he
    exact .inl ⟨he.1, he.2, (Host.Outcome.next.inj h).symm⟩
  · next he => exact .inr ⟨by simpa using he, (Host.Outcome.next.inj h).symm⟩

/-! ## The next turn -/

/-- Taking the next turn changes only the turns and the draw counter. -/
theorem nextTurn_frame (s : State) : ∃ ts d, (nextTurn s).2 = { s with turns := ts, draws := d } := by
  unfold nextTurn
  split
  · exact ⟨_, s.draws, rfl⟩
  · exact ⟨s.turns, _, rfl⟩

theorem nextTurn_cons {s : State} {t : Turn} {ts : List Turn} (h : s.turns = t :: ts) :
    nextTurn s = (t, { s with turns := ts }) := by
  unfold nextTurn
  rw [h]

/-- A step is the turn that State names. -/
theorem step_cons {s : State} {t : Turn} {ts : List Turn} (h : s.turns = t :: ts) :
    step s = takeTurn t { s with turns := ts } := by
  unfold step
  rw [nextTurn_cons h]

end Sys2Proof.Machine
end

