-- ==== Sys2Proof/Laws/Encoding.lean ====
section
/-! SUPPORT. The fields of a host word (30_encoding.md R88). -/

namespace Sys2Proof

/-- The bits of a host word: the argument, twelve zeros, the selector. -/
theorem hostWord_getLsbD (hop : BitVec 4) (arg : HostField) (i : Nat) :
    (hostWord hop arg).getLsbD i =
      if i < 16 then arg.getLsbD i else if i < 28 then false else hop.getLsbD (i - 28) := by
  have h1 : (hostWord hop arg).getLsbD i =
      if i < 16 then arg.getLsbD i else (hop ++ 0#12).getLsbD (i - 16) :=
    BitVec.getLsbD_append
  have h2 : (hop ++ 0#12).getLsbD (i - 16) =
      if i - 16 < 12 then (0#12).getLsbD (i - 16) else hop.getLsbD (i - 16 - 12) :=
    BitVec.getLsbD_append
  rw [h1, h2]
  split
  · rfl
  · next h =>
    have : (i - 16 < 12) = (i < 28) := by simp only [eq_iff_iff]; omega
    simp only [this, BitVec.getLsbD_zero, show i - 16 - 12 = i - 28 by omega]

theorem hostWord_selector (hop : BitVec 4) (arg : HostField) :
    (hostWord hop arg).extractLsb' 28 4 = hop := by
  apply BitVec.eq_of_getLsbD_eq
  intro i hi
  simp only [BitVec.getLsbD_extractLsb', hostWord_getLsbD, hi]
  simp
  omega

theorem hostWord_reserved (hop : BitVec 4) (arg : HostField) :
    (hostWord hop arg).extractLsb' 16 12 = 0#12 := by
  apply BitVec.eq_of_getLsbD_eq
  intro i hi
  simp only [BitVec.getLsbD_extractLsb', hostWord_getLsbD]
  simp
  omega

theorem hostWord_argument (hop : BitVec 4) (arg : HostField) :
    (hostWord hop arg).extractLsb' 0 16 = arg := by
  apply BitVec.eq_of_getLsbD_eq
  intro i hi
  simp only [BitVec.getLsbD_extractLsb', hostWord_getLsbD, hi]
  simp [hi]

/-- A host word is decoded by its selector and its argument. -/
theorem decodeHost_hostWord (hop : BitVec 4) (arg : HostField) (baud : Rat) :
    decodeHost ⟨hostWord hop arg, baud⟩ = decodeSelector hop arg baud := by
  simp only [decodeHost, hostWord_selector, hostWord_reserved, hostWord_argument, if_true]

/-- A word whose reserved bits are 0 is the host word of its selector and argument. -/
theorem hostWord_of_fields (w : BitVec 32) (h : w.extractLsb' 16 12 = 0#12) :
    hostWord (w.extractLsb' 28 4) (w.extractLsb' 0 16) = w := by
  apply BitVec.eq_of_getLsbD_eq
  intro i hi
  rw [hostWord_getLsbD]
  split
  · next h1 => simp [h1]
  · next h1 =>
    split
    · next h2 =>
      have := congrArg (fun x => x.getLsbD (i - 16)) h
      simp only [BitVec.getLsbD_extractLsb', BitVec.getLsbD_zero,
        show 16 + (i - 16) = i by omega, show i - 16 < 12 by omega] at this
      simpa using this.symm
    · next h2 =>
      rw [BitVec.getLsbD_extractLsb', show 28 + (i - 28) = i by omega]
      simp
      omega

end Sys2Proof
end

