-- ==== Sys2Proof/Laws/Schedule.lean ====
section
/-! SUPPORT. The timing record and the schedule (40_format_resolver.md), said once. -/

namespace Sys2Proof.Machine

theorem params_wf_iff (p : Params) :
    p.wf = true ↔ 11 ≤ p.wordW ∧ 1 ≤ p.txCap ∧ 1 ≤ p.rxCap ∧ 2 ≤ p.stopTicks ∧ p.stopTicks ≤ 4 := by
  simp [Params.wf, and_assoc]

/-- R112: the range of `bitsToSend`. -/
theorem bitCount_range (f : FormatSpec) : 5 ≤ bitCount f ∧ bitCount f ≤ 9 := by
  unfold bitCount
  cases f.dataBits <;> cases f.parityMode <;> decide

/-- `bitsToSend` does not wrap in its 4 bits. -/
theorem timingOf_bitsToSend (p : Params) (f : FormatSpec) :
    (timingOf p f).bitsToSend.toNat = bitCount f := by
  have := bitCount_range f
  simp only [timingOf, BitVec.toNat_ofNat]
  omega

/-- `txShiftCount` does not wrap in its 4 bits. -/
theorem timingOf_txShiftCount (p : Params) (f : FormatSpec) :
    (timingOf p f).txShiftCount.toNat = bitCount f + f.stopBits.count := by
  have := bitCount_range f
  have : f.stopBits.count ≤ 2 := by cases f.stopBits <;> decide
  simp only [timingOf, BitVec.toNat_ofNat]
  omega

/-- There is always a FINAL after the last bit, and never more than 7 entries (R118; log 10). -/
theorem timingOf_schedLen_range {p : Params} (h : p.wf = true) (f : FormatSpec) :
    4 + 4 * bitCount f + 1 ≤ (timingOf p f).schedLen ∧
      (timingOf p f).schedLen ≤ 4 + 4 * bitCount f + 7 := by
  obtain ⟨-, -, -, h2, h4⟩ := (params_wf_iff p).1 h
  have e : (timingOf p f).schedLen = 4 + 4 * bitCount f + p.stopTicks * f.stopBits.count - 1 := rfl
  rw [e]
  cases f.stopBits <;> simp [StopBits.count] <;> omega

theorem scheduleCodes_length (t : Timing) : (scheduleCodes t).length = t.schedLen := by
  simp [scheduleCodes]

theorem scheduleCodes_getElem? (t : Timing) {i : Nat} (h : i < t.schedLen) :
    (scheduleCodes t)[i]? =
      some (encodeMicroOp (scheduleOp t.bitsToSend.toNat t.schedLen i)) := by
  simp [scheduleCodes, h]

/-- `op(i)` inside a bit group (R119). -/
theorem scheduleOp_data {b L i : Nat} (h4 : 4 ≤ i) (hb : i < 4 + 4 * b) :
    scheduleOp b L i =
      if i % 4 = 0 then .vsample else if i % 4 = 3 then .shiftin else .vconfirm := by
  unfold scheduleOp
  rw [if_neg (by omega), if_neg (by omega), if_pos hb]
  have h : i % 4 = 0 ∨ i % 4 = 1 ∨ i % 4 = 2 ∨ i % 4 = 3 := by omega
  rcases h with h | h | h | h
  · rw [show (i - 4) % 4 = 0 by omega, h]; rfl
  · rw [show (i - 4) % 4 = 1 by omega, h]; rfl
  · rw [show (i - 4) % 4 = 2 by omega, h]; rfl
  · rw [show (i - 4) % 4 = 3 by omega, h]; rfl

theorem scheduleOp_start {b L i : Nat} (h : i < 3) : scheduleOp b L i = .startchk := by
  simp [scheduleOp, h]

theorem scheduleOp_clear {b L : Nat} : scheduleOp b L 3 = .clear := by simp [scheduleOp]

theorem scheduleOp_stop {b L i : Nat} (h : 4 + 4 * b ≤ i) :
    scheduleOp b L i = if i < L - 1 then .stopchk else .final := by
  unfold scheduleOp
  rw [if_neg (by omega), if_neg (by omega), if_neg (by omega)]

/-- Where each micro-operation of a schedule stands (R119, R120). -/
theorem scheduleOp_iff {b L i : Nat} (hL : 4 + 4 * b + 1 ≤ L) (hi : i < L) :
    (scheduleOp b L i = .startchk ↔ i < 3) ∧ (scheduleOp b L i = .clear ↔ i = 3) ∧
    (scheduleOp b L i = .vsample ↔ 4 ≤ i ∧ i < 4 + 4 * b ∧ i % 4 = 0) ∧
    (scheduleOp b L i = .vconfirm ↔ 4 ≤ i ∧ i < 4 + 4 * b ∧ (i % 4 = 1 ∨ i % 4 = 2)) ∧
    (scheduleOp b L i = .shiftin ↔ 4 ≤ i ∧ i < 4 + 4 * b ∧ i % 4 = 3) ∧
    (scheduleOp b L i = .stopchk ↔ 4 + 4 * b ≤ i ∧ i + 1 < L) ∧
    (scheduleOp b L i = .final ↔ i + 1 = L) := by
  rcases Nat.lt_or_ge i 3 with h | h
  · rw [scheduleOp_start h]
    simp
    omega
  rcases Nat.eq_or_lt_of_le h with rfl | h
  · rw [scheduleOp_clear]
    simp
    omega
  rcases Nat.lt_or_ge i (4 + 4 * b) with hb | hb
  · rw [scheduleOp_data h hb]
    split_ifs <;> simp <;> omega
  · rw [scheduleOp_stop hb]
    split_ifs <;> simp <;> omega

/-- No schedule holds the reserved code: every entry decodes to its operation. -/
theorem decodeMicroOp_encodeMicroOp (m : MicroOp) : decodeMicroOp (encodeMicroOp m) = some m := by
  cases m <;> rfl

theorem encodeMicroOp_injective {m n : MicroOp} (h : encodeMicroOp m = encodeMicroOp n) :
    m = n := by
  have := congrArg decodeMicroOp h
  simpa [decodeMicroOp_encodeMicroOp] using this

/-- What BEGIN leaves in SCHED starts with the whole schedule. -/
theorem buildSched_take (t : Timing) (old : List (BitVec 3)) :
    (buildSched t old).take t.schedLen = scheduleCodes t := by
  unfold buildSched
  rw [← scheduleCodes_length t, List.take_left']
  rfl

/-- `resolve` gives the timing record of the format the code names (R110). -/
theorem resolve_eq_some {p : Params} {code : FormatCode} {t : Timing} (h : resolve p code = some t) :
    ∃ f, formatDecode p code = some f ∧ t = timingOf p f := by
  obtain ⟨f, hf, rfl⟩ := Option.map_eq_some_iff.1 h
  exact ⟨f, hf, rfl⟩

end Sys2Proof.Machine
end

