-- ==== Sys2Proof/Laws/Invariants.lean ====
section
/-! SUPPORT. What the invariants of 10_state.md R53 give, and which fields they read. -/

namespace Sys2Proof.Machine

theorem timing_congr {s t : State} (h : t.config = s.config) : timing t = timing s := by
  unfold timing
  rw [h]

theorem timing_of_config {s : State} {c : PortConfig} (h : s.config = some c) :
    timing s = c.timing := by
  unfold timing
  rw [h]

/-- The invariants read these fields and no others. -/
theorem Invariants.congr {s t : State} (hi : Invariants s) (params : t.params = s.params)
    (active : t.portActive = s.portActive) (enabled : t.txEnabled = s.txEnabled)
    (config : t.config = s.config) (sched : t.sched = s.sched)
    (remaining : t.txRemaining = s.txRemaining) (running : t.txRunning = s.txRunning)
    (index : t.scheduleIndex = s.scheduleIndex) (sampling : t.rxSampling = s.rxSampling)
    (armed : t.edgeArmed = s.edgeArmed) (pending : t.edgePending = s.edgePending)
    (txq : t.txq = s.txq) (rxq : t.rxq = s.rxq) : Invariants t := by
  have htiming := timing_congr config
  obtain ⟨h1, h2, h3, h4, h5, h6, h7, h8, h9, h10, h11, h12, h13, h14⟩ := hi
  constructor <;>
    simp only [params, active, enabled, config, sched, remaining, running, index, sampling, armed,
      pending, txq, rxq, htiming] <;> assumption

theorem WordsFit.congr {s t : State} (h : WordsFit s) (params : t.params = s.params)
    (word : t.txCurrentWord = s.txCurrentWord) (config : t.config = s.config)
    (txq : t.txq = s.txq) (rxq : t.rxq = s.rxq) (acc : t.accumulator = s.accumulator) :
    WordsFit t := by
  obtain ⟨h1, h2, h3, h4, h5, h6, h7⟩ := h
  constructor <;> simp only [params, word, config, txq, rxq, acc] <;> assumption

/-- I2: a port that samples is active. -/
theorem Invariants.active_of_sampling {s : State} (hi : Invariants s)
    (h : s.rxSampling = true) : s.portActive = true := by
  by_contra hn
  have := hi.inactive (by simpa using hn)
  simp [h] at this

/-- I2: a port whose TX timer runs is active. -/
theorem Invariants.active_of_running {s : State} (hi : Invariants s)
    (h : s.txRunning = true) : s.portActive = true := by
  by_contra hn
  have := hi.inactive (by simpa using hn)
  simp [h] at this

/-- I2: a port whose edge detector is armed is active. -/
theorem Invariants.active_of_armed {s : State} (hi : Invariants s)
    (h : s.edgeArmed = true) : s.portActive = true := by
  by_contra hn
  have := hi.inactive (by simpa using hn)
  simp [h] at this

/-- What BEGIN writes once its checks have passed is a configuration (R211). -/
theorem portConfig_inv {p : Params} {code : FormatCode} {baud : Rat} {t : Timing}
    (hb : baudOk p baud = true) (hr : resolve p code = some t) :
    ConfigInv p (portConfig p.wordW code baud t) :=
  ⟨⟨code, rfl, hr⟩, hb, rfl, rfl⟩

/-- The timing record in force is the one RESOLVE gives for some format (R110). -/
theorem Invariants.timing_eq {s : State} (hi : Invariants s) {c : PortConfig}
    (h : s.config = some c) : ∃ f, c.timing = timingOf s.params f := by
  obtain ⟨code, -, hr⟩ := (hi.config c h).accepted
  obtain ⟨f, -, e⟩ := resolve_eq_some hr
  exact ⟨f, e⟩

/-- While the receiver samples, the entry at its index is the schedule's (R34, R53 I5). -/
theorem Invariants.entry {s : State} (hi : Invariants s) (h : s.rxSampling = true) :
    ∃ c f, s.config = some c ∧ c.timing = timingOf s.params f ∧ timing s = c.timing ∧
      s.scheduleIndex.toNat < c.timing.schedLen ∧
      schedEntry s s.scheduleIndex.toNat =
        encodeMicroOp (scheduleOp (bitCount f) c.timing.schedLen s.scheduleIndex.toNat) := by
  obtain ⟨c, hc⟩ := Option.isSome_iff_exists.1 (hi.configured (hi.active_of_sampling h))
  obtain ⟨f, hf⟩ := hi.timing_eq hc
  have ht := timing_of_config hc
  have hx := hi.index h
  rw [ht] at hx
  refine ⟨c, f, hc, hf, ht, hx, ?_⟩
  have h2 := scheduleCodes_getElem? c.timing hx
  rw [← hi.schedule c hc, List.getElem?_take_of_lt hx] at h2
  unfold schedEntry
  rw [List.getD_eq_getElem?_getD, h2, hf, timingOf_bitsToSend]
  rfl

/-- What RXTICK does from a state that meets the invariants (R182): one of the schedule's
micro-operations, never the reserved code. -/
theorem Invariants.rxtick {s : State} (hi : Invariants s) (h : s.rxSampling = true) :
    ∃ c f, s.config = some c ∧ c.timing = timingOf s.params f ∧
      s.scheduleIndex.toNat < c.timing.schedLen ∧
      execRxtick s =
        runMicroOp (scheduleOp (bitCount f) c.timing.schedLen s.scheduleIndex.toNat)
          (advanceIndex s) := by
  obtain ⟨c, f, hc, hf, -, hx, he⟩ := hi.entry h
  exact ⟨c, f, hc, hf, hx, execRxtick_runs h (by rw [he, decodeMicroOp_encodeMicroOp])⟩

end Sys2Proof.Machine
end

