-- ==== Sys2Proof/Laws/PerInstr.lean ====
section
/-! SUPPORT. Statements for all instructions, one lemma per constructor. -/

namespace Sys2Proof.Laws

/-- The code word of an instruction agrees with its row of the opcode table. -/
def MatchesTable.Statement (i : Instr) : Prop :=
  (encode i).bits &&& (tableRow i).1 = (tableRow i).2

namespace MatchesTable

theorem startchk : Statement .startchk := by rfl
theorem clear : Statement .clear := by rfl
theorem vsample : Statement .vsample := by rfl
theorem vconfirm : Statement .vconfirm := by rfl
theorem shiftin : Statement .shiftin := by rfl
theorem stopchk : Statement .stopchk := by rfl
theorem final : Statement .final := by rfl
theorem txtick : Statement .txtick := by rfl
theorem rxtick : Statement .rxtick := by rfl
theorem rxedge : Statement .rxedge := by rfl

theorem beginPort (code : FormatCode) (baud : Rat) : Statement (.beginPort code baud) := by
  show hostWord 1#4 code &&& 0xFFFF0000#32 = 0x10000000#32
  apply BitVec.eq_of_getLsbD_eq
  intro i hi
  simp only [BitVec.getLsbD_and, hostWord_getLsbD]
  interval_cases i <;> simp

theorem endPort (retain : Bool) : Statement (.endPort retain) := by
  cases retain <;> rfl

theorem attachfc : Statement .attachfc := by rfl

theorem write (byte : HostByte) : Statement (.write byte) := by
  show hostWord 4#4 (byte.setWidth 16) &&& 0xFFFFFF00#32 = 0x40000000#32
  apply BitVec.eq_of_getLsbD_eq
  intro i hi
  simp only [BitVec.getLsbD_and, hostWord_getLsbD, BitVec.getLsbD_setWidth]
  interval_cases i <;> simp

theorem read : Statement .read := by rfl
theorem peek : Statement .peek := by rfl
theorem avail : Statement .avail := by rfl
theorem availw : Statement .availw := by rfl
theorem flush : Statement .flush := by rfl

end MatchesTable

end Sys2Proof.Laws
end

