-- ==== Sys2Proof/Laws/Words.lean ====
section
/-! SUPPORT. Words of WORD_W bits (00_scope.md R11): the masks at their values and bit by bit, for
every width that holds them. And what the data of BAUD_OK can say (R7). `omega` does not look
through `Word`: arithmetic on words is said at `Nat`, as here. -/

namespace Sys2Proof.Machine

/-! ## Narrowing and masks -/

theorem narrow_lt (w n : Nat) : narrow w n < 2 ^ w := Nat.mod_lt _ (Nat.two_pow_pos w)

theorem narrow_of_lt {w n : Nat} (h : n < 2 ^ w) : narrow w n = n := Nat.mod_eq_of_lt h

theorem oneHot_eq {w n : Nat} (h : n < w) : oneHot w n = 2 ^ n := by
  rw [oneHot, Nat.one_shiftLeft]
  exact narrow_of_lt (Nat.pow_lt_pow_right (by omega) h)

theorem lowMask_eq {w n : Nat} (h : n ≤ w) : lowMask w n = 2 ^ n - 1 := by
  rw [lowMask, Nat.one_shiftLeft]
  have hn := Nat.two_pow_pos n
  have hw := Nat.pow_le_pow_right (n := 2) (by omega) h
  exact narrow_of_lt (by omega)

theorem oneHot_testBit {w n : Nat} (h : n < w) (j : Nat) :
    (oneHot w n).testBit j = decide (j = n) := by
  rw [oneHot_eq h, Nat.testBit_two_pow]
  simp only [eq_comm]

theorem lowMask_testBit {w n : Nat} (h : n ≤ w) (j : Nat) :
    (lowMask w n).testBit j = decide (j < n) := by
  rw [lowMask_eq h, Nat.testBit_two_pow_sub_one]

/-- The stop bits just above the data and parity bits (R116), bit by bit. -/
theorem stopBitPattern_testBit {p : Params} (h : 11 ≤ p.wordW) (f : FormatSpec) (j : Nat) :
    (timingOf p f).stopBitPattern.testBit j =
      (decide (bitCount f ≤ j) && decide (j < bitCount f + f.stopBits.count)) := by
  have hb := bitCount_range f
  have hs : f.stopBits.count ≤ 2 := by cases f.stopBits <;> decide
  simp only [timingOf, narrow, Nat.testBit_mod_two_pow, Nat.testBit_shiftLeft]
  rw [lowMask_testBit (by omega)]
  rw [Bool.eq_iff_iff]
  simp
  omega

/-- The masks and the shift-in bit of a format, bit by bit (R114, R115, R117). -/
theorem masks_testBit {p : Params} (h : 11 ≤ p.wordW) (f : FormatSpec) (j : Nat) :
    (timingOf p f).dataBitsMask.testBit j = decide (j < f.dataBits.count) ∧
    (timingOf p f).parityBitMask.testBit j =
      (decide (f.parityMode ≠ .none) && decide (j = f.dataBits.count)) ∧
    (timingOf p f).shiftInBit.testBit j = decide (j = bitCount f - 1) := by
  have hb := bitCount_range f
  have hd : f.dataBits.count ≤ 8 := by cases f.dataBits <;> decide
  refine ⟨lowMask_testBit (by omega) j, ?_, oneHot_testBit (by omega) j⟩
  simp only [timingOf]
  split
  · next hn => simp [hn]
  · next hn => simp [hn, oneHot_testBit (show f.dataBits.count < p.wordW by omega)]

/-- A bit put below a natural's bits, and taken off again. -/
theorem bit_add_double_div (v : Bool) (n : Nat) : ((if v then 1 else 0) + 2 * n) / 2 = n := by
  cases v <;> simp <;> omega

/-- Bit `j` of the word made of received bits is the `j`-th of them (R192). -/
theorem wordOfBits_testBit (vs : List Level) (j : Nat) :
    (wordOfBits vs).testBit j = vs.getD j false := by
  induction vs generalizing j with
  | nil => simp [wordOfBits]
  | cons v vs ih =>
    cases j with
    | zero => cases v <;> simp [wordOfBits, Nat.testBit_zero]
    | succ j => rw [wordOfBits, Nat.testBit_succ, bit_add_double_div, ih]; rfl

/-- Every word a state holds in its registers and FIFOs is below 2^WORD_W (R11, R21, R47). -/
theorem WordsFit.below_width {s : State} (hi : Invariants s) (h : WordsFit s) :
    s.txCurrentWord < 2 ^ s.params.wordW ∧ s.accumulator < 2 ^ s.params.wordW ∧
    (∀ w ∈ s.txq, w < 2 ^ s.params.wordW) ∧ ∀ w ∈ s.rxq, w < 2 ^ s.params.wordW := by
  refine ⟨h.currentWidth, h.accumulatorWidth, ?_⟩
  cases hc : s.config with
  | none =>
    obtain ⟨ht, hr⟩ := h.unset hc
    simp [ht, hr]
  | some c =>
    obtain ⟨f, hf⟩ := hi.timing_eq hc
    have hw := ((params_wf_iff _).1 hi.params).1
    have hb := timingOf_bitsToSend s.params f
    have hs := timingOf_txShiftCount s.params f
    have hr := bitCount_range f
    have hn : f.stopBits.count ≤ 2 := by cases f.stopBits <;> decide
    rw [← hf] at hb hs
    have key : ∀ n, n ≤ 11 → 2 ^ n ≤ 2 ^ s.params.wordW := fun n hn =>
      Nat.pow_le_pow_right (by omega) (by omega)
    exact ⟨fun w hm => lt_of_lt_of_le (h.queued c hc w hm) (key _ (by omega)),
      fun w hm => lt_of_lt_of_le (h.received c hc w hm) (key _ (by omega))⟩

/-! ## FMT (R26; log 1) -/

/-- A code that the layout accepts has 6 bits (R82). -/
theorem decodeFormat_lt {code : FormatCode} {f : FormatSpec} (h : decodeFormat code = some f) :
    code.toNat < 64 := by
  unfold decodeFormat at h
  split at h
  · next h0 =>
    have := congrArg BitVec.toNat h0
    simp only [BitVec.extractLsb'_toNat, BitVec.toNat_ofNat, Nat.shiftRight_eq_div_pow] at this
    omega
  · cases h

/-- A code that fits WORD_W bits is read back from FMT whole. -/
theorem ofNat_narrow {w : Nat} {code : FormatCode} (h : code.toNat < 2 ^ w) :
    BitVec.ofNat 16 (narrow w code.toNat) = code := by
  rw [narrow_of_lt h, BitVec.ofNat_toNat, BitVec.setWidth_eq]

/-! ## BAUD_OK as data (R7; log 8) -/

/-- Whatever predicate a platform puts on its bauds, some rule says the same of all the positive
bauds of a list, so of every BEGIN of a program. -/
theorem baudRule_of_predicate (p : Params) (ok : Rat → Bool) (bauds : List Rat) :
    ∃ r : BaudRule, ∀ b ∈ bauds, 0 < b → baudOk { p with baudRule := r } b = ok b := by
  refine ⟨.oneOf (bauds.filter ok), fun b hb h0 => ?_⟩
  rw [Bool.eq_iff_iff]
  simp [baudOk, ruleAccepts, h0, hb]

end Sys2Proof.Machine
end

