-- ==== Sys2Proof/Tests/Slice0.lean ====
section
/-! SUPPORT. Tests: expected values come from 95_test_vectors.md (the vector's id stands with each)
and from the encodings of 30_encoding.md. Then, for every obligation with hypotheses, a witness that
meets them. -/

namespace Sys2Proof.Tests

open Sys2Proof Sys2Proof.Machine

/-! ## Helpers -/

/-- The parameters of 95_test_vectors.md's programs: `NoLatch`, capacities 4. -/
def params : Params := { Config.defaultParams with edgeLatch := .noLatch }

/-- A port just constructed, POL = 0, line idle. -/
def fresh : State := State.construct params false true false false

def f8N1 : FormatSpec := ⟨.eight, .none, .one⟩
def f7E1 : FormatSpec := ⟨.seven, .even, .one⟩
def f5N1 : FormatSpec := ⟨.five, .none, .one⟩
def f8E2 : FormatSpec := ⟨.eight, .even, .two⟩

/-- An active port of a format, idle, as BEGIN at 9600 baud leaves it. -/
def active (f : FormatSpec) : State :=
  { fresh with
    portActive := true
    txEnabled := true
    config := some (portConfig params.wordW (encodeFormat f) 9600 (timingOf params f))
    sched := scheduleCodes (timingOf params f)
    edgeArmed := true
    txd := .driven true }

/-- An active port sampling, about to run schedule entry `i`. -/
def sampling (f : FormatSpec) (i : BitVec 6) (rxd : Level) : State :=
  { active f with edgeArmed := false, rxSampling := true, scheduleIndex := i, rxd := rxd }

/-- An active port whose TX timer runs with these words queued. -/
def sending (f : FormatSpec) (q : List Word) : State :=
  { active f with txRunning := true, txq := q }

/-- A check of a next state; `false` after a fault or a refusal. -/
def after (o : Host.Outcome State Fault Refusal) (check : State → Bool) : Bool :=
  match o with
  | .next s => check s
  | .fault _ => false
  | .refused _ => false

/-- `after`, of the Host's turn on a command word (with its baud). -/
def afterCommand (word : BitVec 32) (baud : Rat) (s : State) (check : State → Bool) : Bool :=
  after (hostTurn { s with hostProgram := [⟨word, baud⟩] }) check

/-- The result word of a state. -/
def answered (w : BitVec 32) (s : State) : Bool := s.hostResult == some w

/-! ## WellFormed: each check refuses an ill-formed term -/

theorem test_wf_wordW : Params.wf { params with wordW := 10 } = false := by decide
theorem test_wf_txCap : Params.wf { params with txCap := 0 } = false := by decide
theorem test_wf_rxCap : Params.wf { params with rxCap := 0 } = false := by decide
theorem test_wf_stopTicks_low : Params.wf { params with stopTicks := 1 } = false := by decide
theorem test_wf_stopTicks_high : Params.wf { params with stopTicks := 5 } = false := by decide
theorem test_wf_params : Params.wf params = true := by decide
theorem test_wf_uop : CodeWord.wf (.uop 0b111#3) = false := by decide
theorem test_wf_event : CodeWord.wf (.event 0b11#2) = false := by decide
theorem test_wf_selector : CodeWord.wf (.host ⟨0xF0000000#32, 0⟩) = false := by decide
theorem test_wf_reserved : CodeWord.wf (.host ⟨0x10010003#32, 0⟩) = false := by decide
theorem test_wf_end : CodeWord.wf (.host ⟨0x20000002#32, 0⟩) = false := by decide
theorem test_wf_write : CodeWord.wf (.host ⟨0x40000100#32, 0⟩) = false := by decide
theorem test_wf_attach : CodeWord.wf (.host ⟨0x30000001#32, 0⟩) = false := by decide

/-! ## Decoding: a word written out from the spec's encoding, for every constructor -/

/-- The micro-operation codes of R86. -/
theorem test_decode_uops :
    decode (.uop 0b000#3) = .ok .startchk ∧ decode (.uop 0b001#3) = .ok .clear ∧
    decode (.uop 0b010#3) = .ok .vsample ∧ decode (.uop 0b011#3) = .ok .vconfirm ∧
    decode (.uop 0b100#3) = .ok .shiftin ∧ decode (.uop 0b101#3) = .ok .stopchk ∧
    decode (.uop 0b110#3) = .ok .final := by decide

/-- The event codes of R90. -/
theorem test_decode_events :
    decode (.event 0b00#2) = .ok .txtick ∧ decode (.event 0b01#2) = .ok .rxtick ∧
    decode (.event 0b10#2) = .ok .rxedge := by decide

/-- BEGIN, `HOP` 0001, `ARG` = format code 0x0A (7E1). -/
theorem test_decode_begin :
    decode (.host ⟨0b00010000000000000000000000001010#32, 9600⟩) = .ok (.beginPort 0x000A#16 9600) := by
  decide

/-- END, `HOP` 0010, RETAIN in bit 0; WRITE, `HOP` 0100, the byte in bits 7:0. -/
theorem test_decode_end_write :
    decode (.host ⟨0b00100000000000000000000000000000#32, 0⟩) = .ok (.endPort false) ∧
    decode (.host ⟨0b00100000000000000000000000000001#32, 0⟩) = .ok (.endPort true) ∧
    decode (.host ⟨0b01000000000000000000000010100101#32, 0⟩) = .ok (.write 0xA5#8) := by decide

/-- The commands without operands, `HOP` 0011 and 0101 to 1001. -/
theorem test_decode_plain :
    decode (.host ⟨0b00110000000000000000000000000000#32, 0⟩) = .ok .attachfc ∧
    decode (.host ⟨0b01010000000000000000000000000000#32, 0⟩) = .ok .read ∧
    decode (.host ⟨0b01100000000000000000000000000000#32, 0⟩) = .ok .peek ∧
    decode (.host ⟨0b01110000000000000000000000000000#32, 0⟩) = .ok .avail ∧
    decode (.host ⟨0b10000000000000000000000000000000#32, 0⟩) = .ok .availw ∧
    decode (.host ⟨0b10010000000000000000000000000000#32, 0⟩) = .ok .flush := by decide

/-- Rejections, each by its name (R92). -/
theorem test_decode_rejects :
    decode (.uop 0b111#3) = .error .reservedMicroOp ∧
    decode (.event 0b11#2) = .error .reservedEvent ∧
    decode (.host ⟨0x00000000#32, 0⟩) = .error .reservedSelector ∧
    decode (.host ⟨0x50010000#32, 0⟩) = .error .reservedBits ∧
    decode (.host ⟨0x20000002#32, 0⟩) = .error .nonZeroArgument := by decide

/-- Format codes (R81, R122; V-FR7 to V-FR11). -/
theorem test_decode_formats :
    decodeFormat 0x03#16 = some f8N1 ∧ decodeFormat 0x0A#16 = some f7E1 ∧
    decodeFormat 0x00#16 = some f5N1 ∧ decodeFormat 0x2B#16 = some f8E2 ∧
    decodeFormat 0x14#16 = none ∧ decodeFormat 0x1C#16 = none ∧ decodeFormat 0x34#16 = none ∧
    decodeFormat 0x40#16 = none ∧ decodeFormat 0x8003#16 = none := by decide

/-- The words of the opcode table, as the host numbers them. -/
theorem test_table_words :
    decodeTableWord 3 6 = some .final ∧ decodeTableWord 8 4 = some .shiftin ∧
    decodeTableWord 2 1 = some .rxtick ∧ decodeTableWord 3 7 = none ∧
    decodeTableWord 32 0x20000001 = some (.endPort true) ∧
    decodeTableWord 32 0xA0000000 = none ∧ decodeTableWord 16 0 = none := by decide

/-- A placed host word, micro-operation or event is what the next step runs. -/
theorem test_fetch_words :
    after (step (State.reset.withFetchWord 32 0x30000000)) (·.fcAttached) = true ∧
    after (step (State.reset.withFetchWord 3 2)) (·.lastSampledLevel) = true ∧
    after (step (State.reset.withFetchWord 2 0)) (·.txd == .driven true) = true ∧
    after (step (State.reset.withFetchWord 2 2)) (·.rxSampling) = true := by decide

/-! ## The resolver -/

/-- V-FR1, V-FR2, V-FR4: the timing records. -/
theorem test_timing_records :
    timingOf params f8N1 = ⟨f8N1, 8#4, 9#4, 0x0FF, 0x000, .none, 0x100, 0x080, 37⟩ ∧
    timingOf params f7E1 = ⟨f7E1, 8#4, 9#4, 0x07F, 0x080, .even, 0x100, 0x080, 37⟩ ∧
    timingOf params f8E2 = ⟨f8E2, 9#4, 11#4, 0x0FF, 0x100, .even, 0x600, 0x100, 43⟩ := by
  decide

/-- The names and the codes of the table of R122, in its order. -/
theorem test_format_table :
    allFormats.map encodeFormat = (List.range 20 ++ (List.range 20).map (· + 32)).map
      (BitVec.ofNat 16) ∧
    (allFormats.map formatName).take 9 =
      ["5n1", "6n1", "7n1", "8n1", "5o1", "6o1", "7o1", "8o1", "5e1"].map String.toList ∧
    formatName ⟨.eight, .space, .two⟩ = "8s2".toList := by decide

/-- The 5N1 schedule of 95_test_vectors.md, section 2.1. -/
theorem test_schedule_5N1 :
    scheduleCodes (timingOf params f5N1) =
      [0, 0, 0, 1, 2, 3, 3, 4, 2, 3, 3, 4, 2, 3, 3, 4, 2, 3, 3, 4, 2, 3, 3, 4, 6] := by decide

/-- The end of the 8E2 schedule: 40 STOPCHK, 41 STOPCHK, 42 FINAL. -/
theorem test_schedule_8E2 :
    (scheduleCodes (timingOf params f8E2)).drop 39 = [4, 5, 5, 6] := by decide

/-! ## The frame marshaller -/

/-- V-FC1 to V-FC3. -/
theorem test_fold : fold 16 0x43 = true ∧ fold 16 0x41 = false ∧ fold 16 0x00 = false := by decide

/-- V-FC4, V-FC6, V-FC7, V-FC12, V-FC15, V-FC16. -/
theorem test_assemble :
    assemble 16 (timingOf params f8N1) false 0x41#8 = 0x141 ∧
    assemble 16 (timingOf params f7E1) false 0x43#8 = 0x1C3 ∧
    assemble 16 (timingOf params f7E1) false 0x41#8 = 0x141 ∧
    assemble 16 (timingOf params f5N1) false 0xFF#8 = 0x03F ∧
    assemble 16 (timingOf params f8E2) false 0x00#8 = 0x600 ∧
    assemble 16 (timingOf params f8E2) false 0x01#8 = 0x701 := by decide

/-- V-FC8, V-FC10, V-FC11, and, inverted, V-FC5, V-FC19, V-FC20. -/
theorem test_assemble_more :
    assemble 16 (timingOf params ⟨.seven, .odd, .one⟩) false 0x41#8 = 0x1C1 ∧
    assemble 16 (timingOf params ⟨.seven, .mark, .one⟩) false 0x00#8 = 0x180 ∧
    assemble 16 (timingOf params ⟨.seven, .space, .one⟩) false 0x7F#8 = 0x17F ∧
    assemble 16 (timingOf params f8N1) true 0x41#8 = 0x0BE ∧
    assemble 16 (timingOf params ⟨.eight, .none, .two⟩) true 0x55#8 = 0x0AA ∧
    assemble 16 (timingOf params ⟨.eight, .mark, .one⟩) true 0x00#8 = 0x0FF := by decide

/-- R7: the narrowest words, WORD_W = 11, hold V-FC16 and V-FC20 whole; a result beyond the width is
cut to it (R11). -/
theorem test_word_width :
    let t := timingOf { params with wordW := 11 } f8E2
    t = ⟨f8E2, 9#4, 11#4, 0x0FF, 0x100, .even, 0x600, 0x100, 43⟩ ∧
    assemble 11 t false 0x01#8 = 0x701 ∧
    assemble 11 (timingOf { params with wordW := 11 } ⟨.eight, .mark, .one⟩) true 0x00#8 = 0x0FF ∧
    narrow 11 0x0801 = 0x001 := by decide

/-! ## TXTICK -/

/-- V-TX1 and V-TX7: case A, whatever flow control says. -/
theorem test_txtick_shifts :
    after (exec .txtick { sending f8N1 [] with txCurrentWord := 0x005, txRemaining := 3#4 })
      (fun t => t.txd == .driven true && t.txCurrentWord == 0x002 && t.txRemaining == 2#4) = true ∧
    after (exec .txtick { sending f8N1 [] with
        txCurrentWord := 0x00E, txRemaining := 4#4, fcAttached := true, cts := true })
      (fun t => t.txd == .driven false && t.txRemaining == 3#4) = true := by decide

/-- V-TX2, V-TX6 (dispatch, either polarity), V-TX4 (blocked and empty), V-TX5 (idle). -/
theorem test_txtick_between :
    after (exec .txtick (sending f8N1 [0x141]))
      (fun t => t.txd == .driven false && t.txCurrentWord == 0x141 && t.txRemaining == 9#4
        && t.txq == []) = true ∧
    after (exec .txtick { sending f8N1 [0x0BE] with pol := true, fcAttached := true })
      (fun t => t.txd == .driven true && t.txRemaining == 9#4) = true ∧
    after (exec .txtick { sending f8N1 [] with fcAttached := true, cts := true })
      (fun t => t.txRunning) = true ∧
    after (exec .txtick (sending f8N1 [])) (fun t => t.txd == .driven true && !t.txRunning) = true := by
  decide

/-! ## The receive engine -/

/-- V-RX9 to V-RX11: a start check at index 2 that reads 1 aborts there. -/
theorem test_startchk_noise :
    after (exec .rxtick (sampling f8N1 2#6 true))
      (fun t => t.rxTrace == [.aborted .startNoise 2] && !t.rxSampling && t.edgeArmed
        && !t.edgePending) = true := by decide

/-- CLEAR at index 3 reads no pin (V-RX19). -/
theorem test_clear :
    after (exec .rxtick { sampling f8N1 3#6 true with accumulator := 0xFFFF })
      (fun t => t.accumulator == 0 && t.rxSampling && t.scheduleIndex == 4#6) = true := by decide

/-- VSAMPLE records the logical level under inversion (R181). -/
theorem test_vsample :
    after (exec .rxtick { sampling f8N1 4#6 false with pol := true }) (·.lastSampledLevel) = true := by
  decide

/-- V-RX12: a first VCONFIRM that disagrees. -/
theorem test_vconfirm :
    after (exec .rxtick { sampling f8N1 5#6 false with lastSampledLevel := true })
      (fun t => t.rxTrace == [.aborted .voteMismatch 5] && t.edgeArmed) = true := by decide

/-- R188: the shift comes before the OR, at bit 7 of an 8N1 accumulator. -/
theorem test_shiftin :
    after (exec .rxtick { sampling f8N1 7#6 false with
        accumulator := 0x82, lastSampledLevel := true })
      (fun t => t.accumulator == 0xC1) = true := by decide

/-- 8E2 with tick 41 at 0. -/
theorem test_stopchk :
    after (exec .rxtick (sampling f8E2 41#6 false))
      (fun t => t.rxTrace == [.aborted .stopInvalid 41]) = true := by decide

/-- FINAL at 36 of 8N1 pushes; V-RX18 aborts. -/
theorem test_final :
    after (exec .rxtick { sampling f8N1 36#6 true with accumulator := 0x41 })
      (fun t => t.rxq == [0x041] && t.rxTrace == [.pushed 0x041] && !t.rxSampling
        && t.edgeArmed && t.scheduleIndex == 37#6) = true ∧
    after (exec .rxtick (sampling f8N1 36#6 false))
      (fun t => t.rxTrace == [.aborted .finalStopInvalid 36]) = true := by decide

/-- Overflow of section 2.4: `RX_CAP = 1` and RXQ [0x0C3]. -/
theorem test_final_overflow :
    after (exec .rxtick { sampling f7E1 36#6 true with
        params := { params with rxCap := 1 }, rxq := [0x0C3], accumulator := 0x41 })
      (fun t => t.rxq == [0x0C3] && t.rxTrace == [.dropped 0x041] && t.edgeArmed) = true := by
  decide

/-- The reserved code is the model's fault (R191). -/
theorem test_rxtick_reserved :
    exec .rxtick { sampling f8N1 0#6 false with sched := [7#3] } = .fault (.reservedMicroOp 0) := by
  rfl

/-- V-ED1 to V-ED4. -/
theorem test_edges :
    (lineMove false (active f8N1)).edgePending = true ∧
    (lineMove true { active f8N1 with pol := true, rxd := false }).edgePending = true ∧
    (lineMove false (sampling f8N1 0#6 true)).edgePending = false ∧
    (lineMove true { active f8N1 with rxd := false }).edgePending = false := by decide

/-- V-ED5. -/
theorem test_rxedge :
    after (exec .rxedge { active f8N1 with edgePending := true, scheduleIndex := 37#6 })
      (fun t => !t.edgeArmed && !t.edgePending && t.scheduleIndex == 0#6 && t.rxSampling) = true := by
  decide

/-! ## Host commands -/

/-- V-H1. -/
theorem test_begin :
    afterCommand 0x10000003#32 9600 fresh (fun t => answered 0x00000000#32 t && t.portActive
      && t.txd == .driven true && t.edgeArmed && !t.edgePending && t.sched.length == 37
      && (timing t).txShiftCount == 9#4) = true := by decide

/-- R26: FMT has WORD_W bits; a table's code that they do not hold keeps its low bits there, and the
format is still the one of the whole code. -/
theorem test_begin_fmt_width :
    let p w := { params with wordW := w, formatMap := .rows [(0x1803#16, f8E2)] }
    let fmtIs c := fun t : State => (t.config.map fun x => (x.code, x.timing.fmt)) == some (c, f8E2)
    afterCommand 0x10001803#32 9600 { fresh with params := p 11 } (fmtIs 0x003) = true ∧
    afterCommand 0x10001803#32 9600 { fresh with params := p 13 } (fmtIs 0x1803) = true := by decide

/-- V-H2, V-H3, V-H4 and V-FR13: the order of the checks. -/
theorem test_begin_rejects :
    afterCommand 0x10000003#32 0 fresh (answered 0x00020000#32) = true ∧
    afterCommand 0x10000014#32 9600 fresh (answered 0x00010000#32) = true ∧
    afterCommand 0x10000003#32 9600 { fresh with otherPortActive := true }
      (answered 0x00030000#32) = true ∧
    afterCommand 0x10000014#32 (-9600) fresh (answered 0x00020000#32) = true := by decide

/-- R7: a rule of the platform's beyond positivity, of each form, and that 0 stays refused. -/
theorem test_baud_rules :
    let p r := baudOk { params with baudRule := r }
    p (.atLeast 300) 299 = false ∧ p (.atLeast 300) 300 = true ∧
    p (.atMost 115200) 115200 = true ∧ p (.atMost 115200) 115201 = false ∧
    p (.oneOf [9600, 31250]) 31250 = true ∧ p (.oneOf [9600, 31250]) 9601 = false ∧
    p (.both (.atLeast 300) (.except (.oneOf [9600]))) 9600 = false ∧
    p (.either (.atMost 300) (.oneOf [9600])) 9600 = true ∧
    p (.except (.atLeast 1)) 0 = false := by decide

/-- V-H16, V-H17, V-H18. -/
theorem test_end :
    afterCommand 0x20000001#32 0 (sending f8N1 [0x141]) (fun t => answered 0#32 t
      && !t.txRunning && t.txd == .driven true && t.txq == [0x141] && !t.edgeArmed) = true ∧
    afterCommand 0x20000000#32 0 (active f8N1) (fun t => answered 0#32 t && t.txd == .released
      && !t.portActive) = true ∧
    afterCommand 0x20000001#32 0 fresh (fun t => answered 0#32 t && t.txd == .released) = true := by
  decide

/-- V-H20. -/
theorem test_attachfc :
    afterCommand 0x30000000#32 0 fresh (fun t => answered 0#32 t && t.fcAttached) = true := by decide

/-- V-H5, V-H6, V-H7. -/
theorem test_write :
    afterCommand 0x40000041#32 0 fresh (answered 0x00040000#32) = true ∧
    afterCommand 0x40000041#32 0 (active f8N1) (fun t => answered 0x00000001#32 t
      && t.txq == [0x141] && t.txRunning) = true ∧
    afterCommand 0x400000FF#32 0 (active f5N1) (fun t => t.txq == [0x03F]) = true := by decide

/-- V-H24: the command stays with the Host. -/
theorem test_write_holds :
    afterCommand 0x40000041#32 0 (sending f8N1 [1, 2, 3, 4]) (fun t =>
      t.hostResult == none && t.hostProgram.length == 1 && t.txq.length == 4) = true := by decide

/-- V-H9, V-H11. -/
theorem test_read :
    afterCommand 0x50000000#32 0 fresh (answered 0x00050000#32) = true ∧
    afterCommand 0x50000000#32 0 { active f7E1 with rxq := [0x0C3] } (fun t =>
      answered 0x00000043#32 t && t.rxq == []) = true := by decide

/-- V-H10. -/
theorem test_peek :
    afterCommand 0x60000000#32 0 { active f7E1 with rxq := [0x0C3] } (fun t =>
      answered 0x00000043#32 t && t.rxq == [0x0C3]) = true := by decide

/-- V-H12, V-H13. -/
theorem test_counts :
    afterCommand 0x70000000#32 0 { active f8N1 with rxq := [1, 2] }
      (answered 0x00000002#32) = true ∧
    afterCommand 0x80000000#32 0 (sending f8N1 [1]) (answered 0x00000003#32) = true := by decide

/-- V-H14, V-H15, and FLUSH held by a queued word (program P3). -/
theorem test_flush :
    afterCommand 0x90000000#32 0 (active f8N1) (answered 0x00000000#32) = true ∧
    afterCommand 0x90000000#32 0 fresh (answered 0x00040000#32) = true ∧
    afterCommand 0x90000000#32 0 (sending f8N1 [1]) (fun t => t.hostResult == none
      && t.hostProgram.length == 1) = true := by decide

/-- V-H8, V-H19, V-H21 to V-H23. -/
theorem test_bad_commands :
    ([0x40000141#32, 0x20000002#32, 0xA0000000#32, 0x00000000#32, 0x50010000#32].all fun w =>
      afterCommand w 0 fresh fun t => answered 0x00060000#32 t && t.hostProgram == []) = true := by
  decide

/-! ## Program text (R96, R97) -/

/-- `BEGIN` with a name and with a number, a comment, RXSAMPLES under inversion. -/
theorem test_text :
    assembleLine false "BEGIN 9600, 7E1 ; a comment".toList = some ([⟨0x1000000A#32, 9600⟩], [.host]) ∧
    assembleLine false "BEGIN 9600, 0x03".toList = some ([⟨0x10000003#32, 9600⟩], [.host]) ∧
    assembleLine false "END".toList = some ([⟨0x20000001#32, 0⟩], [.host]) ∧
    assembleLine true "RXSAMPLES 0 1".toList =
      some ([], [.line true, .event 1#2, .line false, .event 1#2]) ∧
    assembleLine false "SEND 0x43, 65".toList =
      some ([⟨0x40000043#32, 0⟩, ⟨0x40000041#32, 0⟩], [.host, .host]) ∧
    assembleLine false "WRITE 256".toList = none := by decide

/-- R87: a listing, and its reading back. -/
theorem test_listing :
    listingFrom 0 [.startchk, .clear] = ["0: STARTCHK".toList, "1: CLEAR".toList] ∧
    readListingFrom 0 ["0: STARTCHK".toList, "1: CLEAR".toList] = some [.startchk, .clear] := by
  decide

/-! ## Timing -/

/-- Section 2.6: 9600 baud gives 104.1667 and 26.0417 microseconds, 8N1's FINAL at 963.54. -/
theorem test_intervals :
    (portConfig 16 3#16 9600 (timingOf params f8N1)).baudInterval = 625 / 6 ∧
    (portConfig 16 3#16 9600 (timingOf params f8N1)).sampleInterval = 625 / 24 ∧
    rxTickInstant (625 / 24) 36 = 23125 / 24 := by decide +kernel

/-! ## Witnesses: for each obligation with hypotheses, and each clause of it, operands that meet them -/

theorem witness_FirstCommandsBeforeBegin : params.txCap < 65536 := by decide

/-- A state whose next turn is `t`. -/
def turning (t : Turn) : State := { active f8N1 with turns := [t] }

theorem witness_StepTakesTheNextTurn :
    (turning (.line false)).turns = .line false :: [] := by decide

theorem witness_StepsNotEnabledChangeNothing :
    (fresh.edgeArmed = false ∨ fresh.edgePending = false) ∧ fresh.rxSampling = false ∧
    fresh.txRunning = false ∧ hostHolds .flush (sending f8N1 []) = true ∧
    hostHolds (.write 0x41#8) (sending f8N1 [1, 2, 3, 4]) = true := by decide

theorem witness_RxEdgeStartsSampling :
    (lineMove false (active f8N1)).edgeArmed = true ∧
    (lineMove false (active f8N1)).edgePending = true := by decide

/-- Both levels: StartCheckAbortsOnIdleLevel, StopCheckAbortsOnStartLevel and
FinalPushesDropsOrAborts. -/
theorem witness_sampled_levels :
    (((sampling f8N1 0#6 false).rxd ^^ (sampling f8N1 0#6 false).pol) = false) ∧
    (((sampling f8N1 0#6 true).rxd ^^ (sampling f8N1 0#6 true).pol) = true) := by decide

theorem witness_VoteConfirmAbortsOnDisagreement :
    (((sampling f8N1 5#6 false).rxd ^^ (sampling f8N1 5#6 false).pol) =
      (sampling f8N1 5#6 false).lastSampledLevel) ∧
    (((sampling f8N1 5#6 true).rxd ^^ (sampling f8N1 5#6 true).pol) ≠
      (sampling f8N1 5#6 true).lastSampledLevel) := by decide

theorem witness_RxTickRunsTheIndexedEntry :
    ((sampling f8N1 36#6 true).rxSampling = true ∧
      decodeMicroOp (schedEntry (sampling f8N1 36#6 true) 36) = some .final) ∧
    ({ sampling f8N1 0#6 true with sched := [7#3] }.rxSampling = true ∧
      schedEntry { sampling f8N1 0#6 true with sched := [7#3] } 0 = 7#3) := by decide

/-- The last bit of a word, at the boundary `txRemaining = 1`. -/
theorem witness_TxTickSendsTheLowBit :
    { sending f8N1 [] with txRemaining := 1#4 }.txRunning = true ∧
    { sending f8N1 [] with txRemaining := 1#4 }.txRemaining ≠ 0#4 := by decide

/-- Also of CharacterWaveform, at both ends of `k`. -/
theorem witness_TxTickDispatchesTheOldestWord :
    (sending f8N1 [0x141]).txRunning = true ∧ (sending f8N1 [0x141]).txRemaining = 0#4 ∧
    (sending f8N1 [0x141]).txq = 0x141 :: [] ∧
    (sending f8N1 [0x141]).txEnabled = true ∧
    (sending f8N1 [0x141]).fcAttached = false ∧
    ({ sending f8N1 [0x141] with fcAttached := true }.cts =
      { sending f8N1 [0x141] with fcAttached := true }.params.ctsAsserted) ∧
    permitted (sending f8N1 [0x141]) = true ∧
    0 ≤ (timing (sending f8N1 [0x141])).txShiftCount.toNat ∧
    9 ≤ (timing (sending f8N1 [0x141])).txShiftCount.toNat := by decide

/-- A port whose flow control blocks. -/
def blocked (q : List Word) : State := { sending f8N1 q with fcAttached := true, cts := true }

theorem witness_BlockedTickChangesNothing :
    (blocked []).txRunning = true ∧ (blocked []).txRemaining = 0#4 ∧
    (blocked []).fcAttached = true ∧ (blocked []).cts ≠ (blocked []).params.ctsAsserted := by decide

theorem witness_TxTickGoesIdle :
    ((sending f8N1 []).txRunning = true ∧ (sending f8N1 []).txRemaining = 0#4 ∧
      (sending f8N1 []).txq = [] ∧ (sending f8N1 []).fcAttached = false) ∧
    { sending f8N1 [1] with txEnabled := false }.txEnabled = false := by decide

theorem witness_BeginActivatesThePort :
    baudOk fresh.params 9600 = true ∧ resolve fresh.params 3#16 = some (timingOf params f8N1) ∧
    fresh.otherPortActive = false := by decide

/-- FormatRegistersHoldTheAcceptedCode, the code at the last bit that 11 bits hold and beyond. -/
theorem witness_FormatRegistersHoldTheAcceptedCode :
    let p := { params with wordW := 11, formatMap := .rows [(0x7FF#16, f8N1), (0x800#16, f8E2)] }
    (baudOk p 9600 = true ∧ (resolve p 0x7FF#16).isSome = true ∧
      (resolve p 0x800#16).isSome = true ∧ fresh.otherPortActive = false) ∧
    ((0x7FF#16).toNat < 2 ^ p.wordW ∧ ¬(0x800#16).toNat < 2 ^ p.wordW) ∧
    (11 ≤ params.wordW ∧ params.formatMap = .layout ∧ (resolve params 0x33#16).isSome = true) := by
  decide

theorem witness_BeginRejectsInOrder :
    baudOk fresh.params 0 = false ∧
    (baudOk fresh.params 9600 = true ∧ resolve fresh.params 0x14#16 = none) ∧
    (baudOk fresh.params 9600 = true ∧ (resolve fresh.params 3#16).isSome = true ∧
      { fresh with otherPortActive := true }.otherPortActive = true) := by decide

theorem witness_DefaultBeginChecks :
    params.baudRule = .anyPositive ∧ params.formatMap = .layout := by decide

/-- Also of WriteEnqueuesHoldsOrRefuses and FlushWaitsForIdle. -/
theorem witness_port_active_and_not :
    (active f8N1).portActive = true ∧ fresh.portActive = false ∧
    ((active f8N1).txq.length ≠ (active f8N1).params.txCap) ∧
    ((sending f8N1 [1, 2, 3, 4]).txq.length =
      (sending f8N1 [1, 2, 3, 4]).params.txCap) ∧
    ((active f8N1).txq = [] ∧ (active f8N1).txRunning = false) ∧
    ((sending f8N1 []).txq ≠ [] ∨ (sending f8N1 []).txRunning = true) := by decide

theorem witness_ReadAndPeekReturnTheHead :
    { active f7E1 with rxq := [0x0C3] }.rxq = 0x0C3 :: [] ∧ (active f7E1).rxq = [] := by decide

theorem witness_CountsAreReturned :
    (active f8N1).rxq.length < 65536 ∧
    (active f8N1).params.txCap - (active f8N1).txq.length < 65536 := by decide

/-- A state at the Host's turn with one command word to run. -/
def commanded (s : State) (w : BitVec 32) : State :=
  { s with turns := [.host], hostProgram := [⟨w, 9600⟩] }

theorem witness_StepRunsTheHostCommand :
    ((commanded fresh 0x10000003#32).turns = .host :: [] ∧
      (commanded fresh 0x10000003#32).hostProgram = ⟨0x10000003#32, 9600⟩ :: [] ∧
      decode (.host ⟨0x10000003#32, 9600⟩) = .ok (.beginPort 3#16 9600) ∧
      hostHolds (.beginPort 3#16 9600)
        { commanded fresh 0x10000003#32 with turns := [] } = false) ∧
    (decode (.host ⟨0x90000000#32, 9600⟩) = .ok .flush ∧
      hostHolds .flush { commanded (blocked []) 0x90000000#32 with turns := [] } = true) := by decide

theorem witness_StepRunsTheEvent :
    (turning (.event 0#2)).turns = .event 0#2 :: [] ∧ decode (.event 0#2) = .ok .txtick ∧
    (turning (.event 3#2)).turns = .event 3#2 :: [] := by decide

/-- The boundary words: a reserved selector (no mask at all), `RSV` and an argument bit. -/
theorem witness_BadCommandChangesNothing :
    mustBeZero ((0xA0000000#32).extractLsb' 28 4) = none ∧
    (mustBeZero ((0x10010000#32).extractLsb' 28 4) = some 0x0FFF0000#32 ∧
      0x10010000#32 &&& 0x0FFF0000#32 ≠ 0#32) ∧
    (mustBeZero ((0x40000100#32).extractLsb' 28 4) = some 0x0FFFFF00#32 ∧
      0x40000100#32 &&& 0x0FFFFF00#32 ≠ 0#32) := by decide

/-- Also of DecodeEncodeGivesBackTheInstruction and EncodeDecodeGivesBackTheWord. -/
theorem witness_encodings :
    Instr.wf (.beginPort 0xFFFF#16 9600) = true ∧ decode (.uop 6#3) = .ok .final ∧
    decode (.event 2#2) = .ok .rxedge ∧
    decode (.host ⟨0x400000FF#32, 7⟩) = .ok (.write 0xFF#8) := by decide

/-- ScheduleIsWellShaped, ScheduleIsTheMacroExpansion and ConstructionMeetsTheInvariants, at both
ends of STOP_TICKS; also of TimingRecordValues, FramesMeetTheirParity and FrameWordLayout, at the
least WORD_W and the default. -/
theorem witness_params :
    Params.wf { params with wordW := 11 } = true ∧ 11 ≤ { params with wordW := 11 }.wordW ∧
    11 ≤ params.wordW ∧
    Params.wf { params with stopTicks := 2 } = true ∧
    Params.wf { params with stopTicks := 4 } = true ∧ params.stopTicks = 2 ∧
    36 < (timingOf params f8N1).schedLen := by decide

theorem witness_FramesMeetTheirParity :
    f7E1.parityMode = .even ∧ (⟨.five, .odd, .one⟩ : FormatSpec).parityMode = .odd ∧
    (⟨.five, .mark, .one⟩ : FormatSpec).parityMode = .mark ∧
    (⟨.five, .space, .one⟩ : FormatSpec).parityMode = .space := by decide

/-- Bit 7 is 8N1's last data bit, bit 8 its stop bit, bit 9 beyond the frame. -/
theorem witness_FrameWordLayout :
    7 < f8N1.dataBits.count ∧ (timingOf params f8N1).bitsToSend.toNat ≤ 8 ∧
    8 < (timingOf params f8N1).txShiftCount.toNat ∧
    (timingOf params f8N1).txShiftCount.toNat ≤ 9 := by decide

/-! ### States that meet the invariants -/

theorem active_config (f : FormatSpec) (c : PortConfig) (h : (active f).config = some c) :
    c = portConfig params.wordW (encodeFormat f) 9600 (timingOf params f) :=
  (Option.some.inj h).symm

/-- An idle active port meets the invariants (StepKeepsTheInvariants, NoStepStops,
FlushMeansEverythingSent and EdgeAndSampleTickExclusive). -/
theorem witness_invariants_active : Invariants (active f8N1) where
  params := by decide
  enabled := by decide
  inactive := by decide
  exclusive := by decide
  pending := by decide
  index := by decide
  remaining := by decide
  noWakeLost := by decide
  sending := by decide
  txBound := by decide
  rxBound := by decide
  configured := by decide
  config := by
    intro c h
    rw [active_config f8N1 c h]
    exact portConfig_inv (by decide) (by decide)
  schedule := by
    intro c h
    rw [active_config f8N1 c h]
    decide

/-- A port that samples at schedule entry 0, its shift-in level and accumulator at hand
(ReceiverRoundTrip, SamplingEndsWithinTheSchedule). -/
theorem witness_invariants_sampling : Invariants (sampling f8N1 0#6 false) where
  params := by decide
  enabled := by decide
  inactive := by decide
  exclusive := by decide
  pending := by decide
  index := by decide
  remaining := by decide
  noWakeLost := by decide
  sending := by decide
  txBound := by decide
  rxBound := by decide
  configured := by decide
  config := by
    intro c h
    rw [active_config f8N1 c h]
    exact portConfig_inv (by decide) (by decide)
  schedule := by
    intro c h
    rw [active_config f8N1 c h]
    decide

/-- A full TXQ on a port about to dispatch (DispatchReleasesAHeldWrite). -/
def full : State := sending f8N1 [0x131, 0x132, 0x133, 0x134]

theorem witness_invariants_full : Invariants full where
  params := by decide
  enabled := by decide
  inactive := by decide
  exclusive := by decide
  pending := by decide
  index := by decide
  remaining := by decide
  noWakeLost := by decide
  sending := by decide
  txBound := by decide
  rxBound := by decide
  configured := by decide
  config := by
    intro c h
    rw [active_config f8N1 c h]
    exact portConfig_inv (by decide) (by decide)
  schedule := by
    intro c h
    rw [active_config f8N1 c h]
    decide

theorem witness_DispatchReleasesAHeldWrite :
    Invariants full ∧ full.portActive = true ∧ full.txq.length = full.params.txCap ∧
    full.txRemaining = 0#4 ∧ permitted full = true :=
  ⟨witness_invariants_full, by decide, by decide, by decide, by decide⟩

theorem witness_FlushMeansEverythingSent :
    Invariants (active f8N1) ∧ (active f8N1).portActive = true ∧
    hostHolds .flush (active f8N1) = false :=
  ⟨witness_invariants_active, by decide, by decide⟩

theorem witness_AccumulatorHoldsTheBitsInOrder :
    11 ≤ (active f8N1).params.wordW ∧
    (active f8N1).config = some (portConfig 16 3#16 9600 (timingOf params f8N1)) ∧
    timingOf params f8N1 = timingOf (active f8N1).params (timingOf params f8N1).fmt ∧
    [true, false, false, false, false, false, true, false].length =
      (timingOf params f8N1).bitsToSend.toNat ∧
    (active f8N1).accumulator = 0 :=
  ⟨by decide, rfl, by decide, by decide, by decide⟩

theorem witness_ReceiverRoundTrip :
    Invariants (sampling f8N1 0#6 false) ∧
    (sampling f8N1 0#6 false).config = some (portConfig 16 3#16 9600 (timingOf params f8N1)) ∧
    (sampling f8N1 0#6 false).rxSampling = true ∧
    (sampling f8N1 0#6 false).scheduleIndex = 0#6 ∧
    (sampling f8N1 0#6 false).rxq.length < (sampling f8N1 0#6 false).params.rxCap ∧
    (sampling f8N1 0#6 false).rxq = [] :=
  ⟨witness_invariants_sampling, rfl, by decide, by decide, by decide, by decide⟩

/-- The first and the last entry that reads the pin. -/
theorem witness_IdealSamplesAreTheWaveform :
    let s := sending f8N1 [0x141]
    s.params.wf = true ∧ s.config = some (portConfig 16 3#16 9600 (timingOf params f8N1)) ∧
    timingOf params f8N1 = timingOf s.params (timingOf params f8N1).fmt ∧
    s.txRunning = true ∧ s.txRemaining = 0#4 ∧
    s.txq = assemble 16 (timingOf params f8N1) s.pol 0x41#8 :: [] ∧
    s.txEnabled = true ∧ permitted s = true ∧
    (0 < (timingOf params f8N1).schedLen ∧ 0 % 4 ≠ 3) ∧
    (36 < (timingOf params f8N1).schedLen ∧ 36 % 4 ≠ 3) :=
  ⟨by decide, rfl, by decide, by decide, by decide, by decide, by decide, by decide, by decide,
    by decide⟩

/-- At the boundary: as many samples as the schedule has entries left. -/
theorem witness_SamplingEndsWithinTheSchedule :
    Invariants (sampling f8N1 0#6 false) ∧ (sampling f8N1 0#6 false).rxSampling = true ∧
    (timing (sampling f8N1 0#6 false)).schedLen ≤
      (sampling f8N1 0#6 false).scheduleIndex.toNat + (List.replicate 37 true).length :=
  ⟨witness_invariants_sampling, by decide, by decide⟩

/-- A step out of a state that meets the invariants. -/
theorem witness_StepKeepsTheInvariants :
    Invariants (turning (.cts true)) ∧
    step (turning (.cts true)) = .next (ctsMove true { turning (.cts true) with turns := [] }) :=
  ⟨witness_invariants_active.congr rfl rfl rfl rfl rfl rfl rfl rfl rfl rfl rfl rfl rfl, rfl⟩

theorem witness_StepKeepsWordsWithinTheFormat : WordsFit (turning (.cts true)) where
  currentWidth := by decide
  accumulatorWidth := by decide
  codeWidth := by
    intro c h
    rw [active_config f8N1 c h]
    decide
  unset := by intro h; cases h
  received := by intro _ _ w h; cases h
  queued := by intro _ _ w h; cases h
  accumulated := by intro _ _; exact Nat.two_pow_pos _

/-- Two ports that differ in every register the spec leaves unspecified. -/
theorem witness_UnspecifiedValuesAreNeverRead :
    SameButUnread (turning (.cts true)) { turning (.cts true) with
      txCurrentWord := 0xFFFF, accumulator := 0xABCD, lastSampledLevel := true } :=
  ⟨rfl, by decide, by decide, by decide⟩

theorem witness_TransmitAndReceiveTicksCommute :
    let s := { sampling f8N1 0#6 false with txRunning := true, txRemaining := 1#4 }
    exec .txtick s = .next (sendBit s) ∧ exec .rxtick s = .next (advanceIndex s) :=
  ⟨rfl, rfl⟩

theorem witness_OnlyTheNamedWritersWrite :
    exec .attachfc fresh =
      .next { fresh with fcAttached := true, hostResult := some 0x00000000#32 } ∧
    (∀ code baud, Instr.attachfc ≠ .beginPort code baud) ∧
    (∀ r, Instr.attachfc ≠ .endPort r) ∧ (∀ b, Instr.attachfc ≠ .write b) ∧
    agentOf .attachfc ≠ .txTimer ∧ agentOf .attachfc ≠ .rxTimer ∧
    { fresh with fcAttached := true }.fcAttached = true := by
  refine ⟨rfl, ?_, ?_, ?_, by decide, by decide, rfl⟩ <;> simp

/-- 8N1 at ratio 1, and at the upper bound 36/35 of section 2.6. -/
theorem witness_SamplesFallInsideTheirBits :
    params.stopTicks = 2 ∧ f8N1.stopBits = .one ∧ (0 : Rat) < 104 ∧
    ((bitCount f8N1 + 1 : Rat) / (bitCount f8N1 + 5 / 4) ≤ 1) ∧
    ((36 : Rat) / 35 ≤ (bitCount f8N1 + 1 : Rat) / (bitCount f8N1 + 3 / 4)) ∧
    7 < bitCount f8N1 := by decide +kernel

end Sys2Proof.Tests
end

section
/-! The order of turns (00_scope.md R9), and what a host command, a turn and a step can do, said once
as inversions for the statements about every step. -/

namespace Sys2Proof.Machine

/-! ## The order of turns -/

/-- Settles O27: the first of `turns` is the turn a step takes. -/
theorem stepTakesTheNextTurn : Obligations.StepTakesTheNextTurn :=
  fun _ _ _ h => ⟨step_cons h, fun _ => rfl⟩

/-- Settles O29: the Host's turn runs its command, or keeps one that holds. -/
theorem stepRunsTheHostCommand : Obligations.StepRunsTheHostCommand := by
  intro s ts c cs i ht hp hd
  rw [step_cons ht]
  exact ⟨fun hh => hostTurn_runs (s := { s with turns := ts }) hp hd hh,
    fun hh => hostTurn_held (s := { s with turns := ts }) hp hd hh⟩

/-- Settles O30: the turn of an event code runs the event, and code 11 names none. -/
theorem stepRunsTheEvent : Obligations.StepRunsTheEvent := by
  intro s ts code ht
  rw [step_cons ht]
  refine ⟨fun i hd => eventTurn_runs hd _, ?_⟩
  rintro rfl
  exact eventTurn_reserved (show decodeEvent 3#2 = .error .reservedEvent from rfl) _

/-! ## What a host command changes -/

/-- What a host command does to a port beside its result word, with the conditions under which it
does it (44_host_interface.md). -/
inductive HostEffect (s : State) : Instr → State → Prop
  | unchanged (i : Instr) : HostEffect s i s
  | begins {code : FormatCode} {baud : Rat} {t : Timing} (accepted : baudOk s.params baud = true)
      (resolved : resolve s.params code = some t) (free : s.otherPortActive = false) :
      HostEffect s (.beginPort code baud) (activate (portConfig s.params.wordW code baud t) s)
  | ends {retain : Bool} (active : s.portActive = true) :
      HostEffect s (.endPort retain) (deactivate retain s)
  | attaches : HostEffect s .attachfc { s with fcAttached := true }
  | enqueues {byte : HostByte} (active : s.portActive = true) (room : txFull s = false) :
      HostEffect s (.write byte)
        (startTimer .txt (pushTx (assemble s.params.wordW (timing s) s.pol byte) s))
  | dequeues {w : Word} {rest : List Word} (head : s.rxq = w :: rest) :
      HostEffect s .read { s with rxq := rest }

/-- A command that only answers has an effect: the one that leaves the port as it is. -/
theorem HostEffect.of_answer {i : Instr} {s t : State} {st : Status} {v : HostField}
    (h : (.next (complete st v s) : Host.Outcome State Fault Refusal) = .next t) :
    t = s ∨ ∃ st v u, HostEffect s i u ∧ t = complete st v u :=
  .inr ⟨st, v, s, .unchanged i, (Host.Outcome.next.inj h).symm⟩

/-- A host command either holds and changes nothing, or has its effect and returns a result. -/
theorem exec_host_cases {i : Instr} {s t : State} (hi : agentOf i = .host)
    (h : exec i s = .next t) :
    t = s ∨ ∃ st v u, HostEffect s i u ∧ t = complete st v u := by
  cases i with
  | startchk | clear | vsample | vconfirm | shiftin | stopchk | final => cases hi
  | txtick | rxtick | rxedge => cases hi
  | beginPort code baud =>
    simp only [exec, execBeginPort] at h
    split at h
    · next hb =>
      split at h
      · exact HostEffect.of_answer h
      · next hr =>
        split at h
        · exact HostEffect.of_answer h
        · next ho => cases h; exact .inr ⟨_, _, _, .begins hb hr (by simpa using ho), rfl⟩
    · exact HostEffect.of_answer h
  | endPort retain =>
    simp only [exec, execEndPort] at h
    split at h
    · next ha => cases h; exact .inr ⟨_, _, _, .ends ha, rfl⟩
    · exact HostEffect.of_answer h
  | attachfc => cases h; exact .inr ⟨_, _, _, .attaches, rfl⟩
  | write byte =>
    simp only [exec, execWrite] at h
    split at h
    · next ha =>
      split at h
      · exact .inl (Host.Outcome.next.inj h).symm
      · next hf => cases h; exact .inr ⟨_, _, _, .enqueues ha (by simpa using hf), rfl⟩
    · exact HostEffect.of_answer h
  | read =>
    simp only [exec, execRead] at h
    split at h
    · exact HostEffect.of_answer h
    · next hq => cases h; exact .inr ⟨_, _, _, .dequeues hq, rfl⟩
  | peek =>
    simp only [exec, execPeek] at h
    split at h <;> exact HostEffect.of_answer h
  | avail | availw => exact HostEffect.of_answer h
  | flush =>
    simp only [exec, execFlush] at h
    split at h
    · split at h
      · exact .inl (Host.Outcome.next.inj h).symm
      · exact HostEffect.of_answer h
    · exact HostEffect.of_answer h

/-! ## What a step does -/

/-- What one turn can do, the turn and the command it takes already removed from `u`. -/
inductive TurnEffect (u : State) : State → Prop
  | nothing : TurnEffect u u
  | badCommand : TurnEffect u (complete .badCommand 0#16 u)
  | line (v : Level) : TurnEffect u (lineMove v u)
  | cts (v : Level) : TurnEffect u (ctsMove v u)
  | otherPort (v : Bool) : TurnEffect u (otherPortMove v u)
  | command {t : State} (i : Instr) (host : agentOf i = .host) (run : exec i u = .next t) :
      TurnEffect u t
  | txtick {t : State} (run : execTxtick u = .next t) : TurnEffect u t
  | rxtick {t : State} (run : execRxtick u = .next t) : TurnEffect u t
  | rxedge {t : State} (run : execRxedge u = .next t) : TurnEffect u t

/-- A Host's turn removes at most its command, and then has one of the effects of a turn. -/
theorem hostTurn_effect {s t : State} (h : hostTurn s = .next t) :
    ∃ hp, TurnEffect { s with hostProgram := hp } t := by
  rcases hostTurn_cases s with ⟨-, e⟩ | ⟨c, rest, -, ⟨_, -, e⟩ | ⟨i, hd, ⟨-, e⟩ | ⟨-, e⟩⟩⟩ <;>
    rw [e] at h
  · cases h; exact ⟨_, .nothing⟩
  · cases h; exact ⟨rest, .badCommand⟩
  · cases h; exact ⟨_, .nothing⟩
  · exact ⟨rest, .command i (decodeHost_agent hd) h⟩

/-- An event's turn runs one of the three events, or nothing. -/
theorem eventTurn_effect {code : BitVec 2} {s t : State} (h : eventTurn code s = .next t) :
    TurnEffect s t := by
  cases hd : decodeEvent code with
  | error e =>
    rw [eventTurn_reserved hd] at h
    cases h
    exact .nothing
  | ok i =>
    rw [eventTurn_runs hd] at h
    rcases decodeEvent_cases hd with rfl | rfl | rfl
    · exact .txtick h
    · exact .rxtick h
    · exact .rxedge h

/-- A turn removes at most a command, and then has one of the effects of a turn. -/
theorem takeTurn_effect {turn : Turn} {s t : State} (h : takeTurn turn s = .next t) :
    ∃ hp, TurnEffect { s with hostProgram := hp } t := by
  cases turn with
  | host => exact hostTurn_effect h
  | event code => exact ⟨_, eventTurn_effect h⟩
  | line v => cases h; exact ⟨_, .line v⟩
  | cts v => cases h; exact ⟨_, .cts v⟩
  | otherPort v => cases h; exact ⟨_, .otherPort v⟩

/-- Every step is one of the effects of a turn, on a state that differs from the one before it in
the model's own three fields alone (log 5, log 12). -/
theorem step_effect {s t : State} (h : step s = .next t) :
    ∃ ts d hp, TurnEffect { s with turns := ts, draws := d, hostProgram := hp } t := by
  obtain ⟨ts, d, e⟩ := nextTurn_frame s
  rw [step, e] at h
  obtain ⟨hp, effect⟩ := takeTurn_effect h
  exact ⟨ts, d, hp, effect⟩

end Sys2Proof.Machine
end

section
/-! Every step keeps words within their widths (00_scope.md R11, 30_encoding.md R84, R85). First
the masks, frame words and shifted bits in numbers, then one lemma an operation, then the engines,
the host commands and the step. -/

namespace Sys2Proof.Machine

/-! ## Widths of masks and frame words -/

theorem oneHot_lt (w n : Nat) : oneHot w n < 2 ^ (n + 1) := by
  have h : oneHot w n ≤ 2 ^ n := by
    rw [oneHot, Nat.one_shiftLeft]
    exact Nat.mod_le _ _
  exact h.trans_lt (Nat.pow_lt_pow_right (by omega) (by omega))

theorem lowMask_lt (w n : Nat) : lowMask w n < 2 ^ n := by
  have h : lowMask w n ≤ 2 ^ n - 1 := by
    rw [lowMask, Nat.one_shiftLeft]
    exact Nat.mod_le _ _
  exact Nat.lt_of_le_pred (Nat.two_pow_pos n) h

/-- The stop bits end where the shifter stops (R113, R116). -/
theorem stopBitPattern_lt (p : Params) (f : FormatSpec) :
    (timingOf p f).stopBitPattern < 2 ^ (bitCount f + f.stopBits.count) := by
  refine (Nat.mod_le _ _).trans_lt ?_
  rw [Nat.shiftLeft_eq, Nat.add_comm, Nat.pow_add]
  exact Nat.mul_lt_mul_of_pos_right (lowMask_lt _ _) (Nat.two_pow_pos _)

/-- The parity bit is the last bit before the stop bits, and a format without parity has none
(R112, R115). -/
theorem parityBitMask_lt (p : Params) (f : FormatSpec) :
    (timingOf p f).parityBitMask < 2 ^ bitCount f := by
  simp only [timingOf]
  split
  · exact Nat.two_pow_pos _
  · next h =>
    have hb : bitCount f = f.dataBits.count + 1 := by
      unfold bitCount
      cases hm : f.parityMode <;> simp_all [parityBits]
    rw [hb]
    exact oneHot_lt _ _

theorem dataBitsMask_lt (p : Params) (f : FormatSpec) :
    (timingOf p f).dataBitsMask < 2 ^ bitCount f :=
  (lowMask_lt _ _).trans_le (Nat.pow_le_pow_right (by omega) (Nat.le_add_right _ _))

/-- ADDPARITY sets no bit but those of the parity mask (R141). -/
theorem addParity_lt {w n : Nat} {t : Timing} {v : Word} (hv : v < 2 ^ n)
    (hm : t.parityBitMask < 2 ^ n) : addParity w t v < 2 ^ n := by
  have ho := Nat.or_lt_two_pow hv hm
  unfold addParity
  split
  · split <;> assumption
  · split <;> assumption
  · exact ho
  · exact hv
  · exact hv

/-- ASSEMBLE makes a word of the bits the shifter sends, at either polarity (R84, R142). -/
theorem assemble_lt (w : Nat) (p : Params) (f : FormatSpec) (pol : Bool) (byte : HostByte) :
    assemble w (timingOf p f) pol byte < 2 ^ (timingOf p f).txShiftCount.toNat := by
  have hl : assembleLogical w (timingOf p f) byte < 2 ^ (timingOf p f).txShiftCount.toNat := by
    rw [timingOf_txShiftCount]
    have hp := addParity_lt (w := w) (Nat.and_lt_two_pow byte.toNat (dataBitsMask_lt p f))
      (parityBitMask_lt p f)
    exact Nat.or_lt_two_pow
      (hp.trans_le (Nat.pow_le_pow_right (by omega) (Nat.le_add_right _ _)))
      (stopBitPattern_lt p f)
  unfold assemble
  split
  · exact Nat.xor_lt_two_pow hl (lowMask_lt _ _)
  · exact hl

/-- A shift in SHIFTIN's order keeps an accumulator to a width that holds the bit put in (R188). -/
theorem shiftIn_lt {acc bit n : Nat} (v : Bool) (ha : acc < 2 ^ n) (hb : bit < 2 ^ n) :
    acc >>> 1 ||| (if v then bit else 0) < 2 ^ n := by
  refine Nat.or_lt_two_pow ((Nat.shiftRight_le acc 1).trans_lt ha) ?_
  split
  · exact hb
  · exact Nat.two_pow_pos n

/-- The bit SHIFTIN puts in is the top one of a received word (R117). -/
theorem shiftInBit_lt (p : Params) (f : FormatSpec) :
    (timingOf p f).shiftInBit < 2 ^ (timingOf p f).bitsToSend.toNat ∧
      (timingOf p f).shiftInBit < 2 ^ p.wordW := by
  have hb := bitCount_range f
  have h := oneHot_lt p.wordW (bitCount f - 1)
  rw [show bitCount f - 1 + 1 = bitCount f by omega] at h
  rw [timingOf_bitsToSend]
  exact ⟨h, narrow_lt _ _⟩

/-! ## One lemma an operation -/

/-- The widths after an operation that writes the accumulator. -/
theorem WordsFit.setAccumulator {s : State} (h : WordsFit s) {a : Word}
    (hw : a < 2 ^ s.params.wordW)
    (hb : ∀ c, s.config = some c → a < 2 ^ c.timing.bitsToSend.toNat) :
    WordsFit { s with accumulator := a } :=
  { h with accumulatorWidth := hw, accumulated := hb }

theorem WordsFit.sendBit {s : State} (h : WordsFit s) : WordsFit (sendBit s) :=
  { h with currentWidth := (Nat.shiftRight_le _ 1).trans_lt h.currentWidth }

theorem WordsFit.dispatchWord {s : State} (hi : Invariants s) (h : WordsFit s) {w : Word}
    {rest : List Word} (hq : s.txq = w :: rest) : WordsFit (dispatchWord w rest s) := by
  obtain ⟨-, -, hbelow, -⟩ := h.below_width hi
  have hmem : ∀ v ∈ rest, v ∈ s.txq := fun v hv => hq ▸ List.mem_cons_of_mem w hv
  exact { h with
    currentWidth := hbelow w (hq ▸ List.mem_cons_self)
    unset := fun hc => absurd (h.unset hc).1 (by simp [hq])
    queued := fun c hc v hv => h.queued c hc v (hmem v hv) }

theorem WordsFit.pushTx {s : State} (h : WordsFit s) {c : PortConfig} (hc : s.config = some c)
    {w : Word} (hw : w < 2 ^ c.timing.txShiftCount.toNat) : WordsFit (pushTx w s) := by
  refine { h with unset := fun hn => absurd (hn.symm.trans hc) (by simp), queued := ?_ }
  intro c' hc' v hv
  rcases List.mem_append.1 hv with hv | hv
  · exact h.queued c' hc' v hv
  · obtain rfl : c = c' := Option.some.inj (hc.symm.trans hc')
    rwa [List.mem_singleton.1 hv]

theorem WordsFit.pushRx {s : State} (h : WordsFit s) {c : PortConfig} (hc : s.config = some c)
    {w : Word} (hw : w < 2 ^ c.timing.bitsToSend.toNat) : WordsFit (pushRx w s) := by
  refine { h with unset := fun hn => absurd (hn.symm.trans hc) (by simp), received := ?_ }
  intro c' hc' v hv
  rcases List.mem_append.1 hv with hv | hv
  · exact h.received c' hc' v hv
  · obtain rfl : c = c' := Option.some.inj (hc.symm.trans hc')
    rwa [List.mem_singleton.1 hv]

theorem WordsFit.popRx {s : State} (h : WordsFit s) {w : Word} {rest : List Word}
    (hq : s.rxq = w :: rest) : WordsFit { s with rxq := rest } :=
  { h with
    unset := fun hc => absurd (h.unset hc).2 (by simp [hq])
    received := fun c hc v hv => h.received c hc v (hq ▸ List.mem_cons_of_mem w hv) }

/-- A BEGIN that succeeds leaves no word but a drawn one (R211, R55). -/
theorem WordsFit.activate {s : State} {c : PortConfig} (hc : c.code < 2 ^ s.params.wordW) :
    WordsFit (activate c s) where
  currentWidth := by simpa using narrow_lt _ _
  accumulatorWidth := by simp
  codeWidth := by simpa using hc
  unset := by simp
  received := by simp
  queued := by simp
  accumulated := by simp

theorem WordsFit.deactivate {s : State} (h : WordsFit s) (retain : Bool) :
    WordsFit (deactivate retain s) := by
  cases retain <;> exact h.congr rfl rfl rfl rfl rfl rfl

theorem WordsFit.complete {s : State} (h : WordsFit s) (st : Status) (v : HostField) :
    WordsFit (complete st v s) := h.congr rfl rfl rfl rfl rfl rfl

theorem WordsFit.abort {s : State} (h : WordsFit s) (cause : AbortCause) :
    WordsFit (abort cause s) := h.congr rfl rfl rfl rfl rfl rfl

theorem WordsFit.deliver {s : State} (h : WordsFit s) {c : PortConfig} (hc : s.config = some c) :
    WordsFit (deliver s) := by
  unfold Machine.deliver
  split
  · exact h.congr rfl rfl rfl rfl rfl rfl
  · exact (h.pushRx hc (h.accumulated c hc)).congr rfl rfl rfl rfl rfl rfl

/-! ## The engines -/

/-- A micro-operation on a configured port: CLEAR and SHIFTIN write the accumulator, FINAL queues
it, the others write no word. -/
theorem WordsFit.runMicroOp {m : MicroOp} {s t : State} (h : WordsFit s) {c : PortConfig}
    {f : FormatSpec} (hc : s.config = some c) (hf : c.timing = timingOf s.params f)
    (hr : runMicroOp m s = .next t) : WordsFit t := by
  cases m with
  | startchk =>
    cases hr
    split
    · exact h.abort _
    · exact h
  | clear =>
    cases hr
    exact h.setAccumulator (Nat.two_pow_pos _) fun _ _ => Nat.two_pow_pos _
  | vsample =>
    cases hr
    exact h.congr rfl rfl rfl rfl rfl rfl
  | vconfirm =>
    cases hr
    split
    · exact h
    · exact h.abort _
  | shiftin =>
    cases hr
    obtain ⟨hbits, hword⟩ := shiftInBit_lt s.params f
    rw [← hf, ← timing_of_config hc] at hbits hword
    refine h.setAccumulator (shiftIn_lt _ h.accumulatorWidth hword) fun c' hc' => ?_
    rw [timing_of_config hc'] at hbits
    rw [timing_of_config hc']
    exact shiftIn_lt _ (h.accumulated c' hc') hbits
  | stopchk =>
    cases hr
    split
    · exact h
    · exact h.abort _
  | final =>
    cases hr
    split
    · exact (h.deliver hc).congr rfl rfl rfl rfl rfl rfl
    · exact h.abort _

/-- A port that samples has a format in force, so RXTICK runs its micro-operation on one. -/
theorem WordsFit.execRxtick {s t : State} (hi : Invariants s) (h : WordsFit s)
    (hr : execRxtick s = .next t) : WordsFit t := by
  rcases execRxtick_cases hr with ⟨-, rfl⟩ | ⟨m, hs, -, hm⟩
  · exact h
  · obtain ⟨c, f, hc, hf, -⟩ := hi.rxtick hs
    have ha : WordsFit (advanceIndex s) := h.congr rfl rfl rfl rfl rfl rfl
    exact ha.runMicroOp hc hf hm

theorem WordsFit.execTxtick {s t : State} (hi : Invariants s) (h : WordsFit s)
    (hr : execTxtick s = .next t) : WordsFit t := by
  rcases execTxtick_cases hr with ⟨-, rfl⟩ | ⟨-, -, rfl⟩ | ⟨-, -, rfl⟩
  · exact h
  · exact h.sendBit
  · rcases betweenWords_cases s with ⟨w, rest, hq, -, -, e⟩ | ⟨-, e⟩ | ⟨-, -, e⟩ <;> rw [e]
    · exact h.dispatchWord hi hq
    · exact h
    · exact h.congr rfl rfl rfl rfl rfl rfl

theorem WordsFit.execRxedge {s t : State} (h : WordsFit s) (hr : execRxedge s = .next t) :
    WordsFit t := by
  rcases execRxedge_cases hr with ⟨-, -, rfl⟩ | ⟨-, rfl⟩
  · exact h.congr rfl rfl rfl rfl rfl rfl
  · exact h

/-! ## The host commands and the step -/

/-- An active port has a format in force, so WRITE assembles its byte with that format's record. -/
theorem WordsFit.hostEffect {i : Instr} {s u : State} (hi : Invariants s) (h : WordsFit s)
    (he : HostEffect s i u) : WordsFit u := by
  cases he with
  | unchanged => exact h
  | begins => exact WordsFit.activate (narrow_lt _ _)
  | ends => exact h.deactivate _
  | attaches => exact h.congr rfl rfl rfl rfl rfl rfl
  | enqueues active =>
    obtain ⟨c, hc⟩ := Option.isSome_iff_exists.1 (hi.configured active)
    obtain ⟨f, hf⟩ := hi.timing_eq hc
    rw [timing_of_config hc, hf]
    refine (h.pushTx hc ?_).congr rfl rfl rfl rfl rfl rfl
    rw [hf]
    exact assemble_lt _ _ f _ _
  | dequeues head => exact h.popRx head

theorem WordsFit.turnEffect {u t : State} (hi : Invariants u) (h : WordsFit u)
    (he : TurnEffect u t) : WordsFit t := by
  cases he with
  | nothing => exact h
  | badCommand => exact h.complete _ _
  | line | cts | otherPort => exact h.congr rfl rfl rfl rfl rfl rfl
  | command i host run =>
    rcases exec_host_cases host run with rfl | ⟨st, v, u', effect, rfl⟩
    · exact h
    · exact (h.hostEffect hi effect).complete st v
  | txtick run => exact h.execTxtick hi run
  | rxtick run => exact h.execRxtick hi run
  | rxedge run => exact h.execRxedge run

/-- Settles O53, over the effects a turn can have. -/
theorem stepKeepsWordsWithinTheFormat : Obligations.StepKeepsWordsWithinTheFormat := by
  intro s t hi h hs
  obtain ⟨ts, d, hp, effect⟩ := step_effect hs
  have hi' : Invariants { s with turns := ts, draws := d, hostProgram := hp } :=
    hi.congr rfl rfl rfl rfl rfl rfl rfl rfl rfl rfl rfl rfl rfl
  have h' : WordsFit { s with turns := ts, draws := d, hostProgram := hp } :=
    h.congr rfl rfl rfl rfl rfl rfl
  exact h'.turnEffect hi' effect

end Sys2Proof.Machine
end

section
/-! Every step keeps the invariants I1 to I9 (10_state.md R53): first what a micro-operation can do,
then one lemma an operation, then the engines, the host commands and the step. -/

namespace Sys2Proof.Machine

/-! ## What a micro-operation can do -/

/-- `t` is `s` with the character in reception over: the RX timer stopped and the edge detector
armed, RXQ as it was or, where it had room, with the accumulator pushed (R190, R200). -/
def EndsCharacter (s t : State) : Prop :=
  ∃ q tr, t = { armEdge (stopTimer .rxt s) with rxq := q, rxTrace := tr } ∧
    (q = s.rxq ∨ rxFull s = false ∧ q = s.rxq ++ [s.accumulator])

theorem abort_endsCharacter (cause : AbortCause) (s : State) : EndsCharacter s (abort cause s) :=
  ⟨_, _, rfl, .inl rfl⟩

theorem deliver_endsCharacter (s : State) :
    EndsCharacter s (armEdge (stopTimer .rxt (deliver s))) := by
  unfold deliver
  split
  · exact ⟨_, _, rfl, .inl rfl⟩
  · next hf => exact ⟨_, _, rfl, .inr ⟨by simpa using hf, rfl⟩⟩

/-- A micro-operation ends the character, as FINAL always does, or writes at most the accumulator
and the recorded level. -/
theorem runMicroOp_cases {m : MicroOp} {s t : State} (h : runMicroOp m s = .next t) :
    EndsCharacter s t ∨
      m ≠ .final ∧ ∃ a v, t = { s with accumulator := a, lastSampledLevel := v } := by
  cases m with
  | clear | vsample | shiftin =>
    cases h
    exact .inr ⟨by decide, _, _, rfl⟩
  | startchk =>
    cases h
    split
    · exact .inl (abort_endsCharacter _ _)
    · exact .inr ⟨by decide, _, _, rfl⟩
  | stopchk | vconfirm =>
    cases h
    split
    · exact .inr ⟨by decide, _, _, rfl⟩
    · exact .inl (abort_endsCharacter _ _)
  | final =>
    cases h
    split
    · exact .inl (deliver_endsCharacter s)
    · exact .inl (abort_endsCharacter _ _)

/-! ## One lemma an operation -/

theorem Invariants.complete {s : State} (hi : Invariants s) (st : Status) (v : HostField) :
    Invariants (complete st v s) :=
  { hi with }

/-- LINE sets the pending bit only of an armed detector (R45, R46), so I2 and I4 stay. -/
theorem Invariants.lineMove {s : State} (hi : Invariants s) (v : Level) :
    Invariants (lineMove v s) := by
  refine { hi with inactive := fun ha => ?_, pending := fun hp => ?_ }
  · obtain ⟨hr, hx, harm, hp⟩ := hi.inactive ha
    exact ⟨hr, hx, harm, by simp [harm, hp]⟩
  · rcases Bool.or_eq_true_iff.1 hp with hp | hp
    · exact hi.pending hp
    · exact (Bool.and_eq_true_iff.1 hp).1

theorem Invariants.sendBit {s : State} (hi : Invariants s) (hr : s.txRunning = true)
    (h0 : s.txRemaining ≠ 0#4) : Invariants (sendBit s) := by
  have hle : (s.txRemaining - 1#4).toNat ≤ s.txRemaining.toNat := by bv_omega
  exact { hi with remaining := hle.trans hi.remaining, sending := fun _ => hr }

theorem Invariants.dispatchWord {s : State} (hi : Invariants s) (hr : s.txRunning = true)
    {w : Word} {rest : List Word} (hq : s.txq = w :: rest) :
    Invariants (dispatchWord w rest s) := by
  have hb := hi.txBound
  rw [hq] at hb
  exact { hi with
    remaining := le_rfl
    noWakeLost := fun _ _ => hr
    sending := fun _ => hr
    txBound := (Nat.le_succ _).trans hb }

/-- The TX timer stops only with no bit and, on an active port, no word left to send (R164). -/
theorem Invariants.goIdle {s : State} (hi : Invariants s) (h0 : s.txRemaining = 0#4)
    (hq : s.txq = [] ∨ s.txEnabled = false) : Invariants (goIdle s) := by
  refine { hi with
    inactive := fun ha => ⟨rfl, (hi.inactive ha).2⟩
    noWakeLost := fun ha hne => ?_
    sending := fun hne => absurd h0 hne }
  rcases hq with hq | he
  · exact absurd hq hne
  · exact absurd (hi.enabled.symm.trans he) (by simpa using ha)

theorem Invariants.startSampling {s : State} (hi : Invariants s) (harm : s.edgeArmed = true) :
    Invariants (startTimer .rxt { disarmEdge s with scheduleIndex := 0#6 }) := by
  have hact := hi.active_of_armed harm
  obtain ⟨c, hc⟩ := Option.isSome_iff_exists.1 (hi.configured hact)
  obtain ⟨f, hf⟩ := hi.timing_eq hc
  have hlen := (timingOf_schedLen_range hi.params f).1
  refine { hi with
    inactive := fun ha => absurd hact (by simpa using ha)
    exclusive := fun _ => rfl
    pending := fun hp => by simp at hp
    index := fun _ => ?_ }
  show 0 < (timing s).schedLen
  rw [timing_of_config hc, hf]
  omega

/-- The sequencer moves on to another entry of the schedule. -/
theorem Invariants.setIndex {s : State} (hi : Invariants s) {i : BitVec 6}
    (h : i.toNat < (timing s).schedLen) : Invariants { s with scheduleIndex := i } :=
  { hi with index := fun _ => h }

/-- RXQ keeps to its capacity, as it was or with a word pushed where there was room (R13, R245). -/
theorem Invariants.room {s : State} (hi : Invariants s) {q : List Word} {w : Word}
    (hq : q = s.rxq ∨ rxFull s = false ∧ q = s.rxq ++ [w]) : q.length ≤ s.params.rxCap := by
  rcases hq with rfl | ⟨hroom, rfl⟩
  · exact hi.rxBound
  · have hlt : s.rxq.length < s.params.rxCap :=
      lt_of_le_of_ne hi.rxBound (by simpa [rxFull] using hroom)
    simpa using hlt

/-- A character ends, whatever the index by then (R190, R200). -/
theorem Invariants.endCharacter {s : State} (hi : Invariants s) (hact : s.portActive = true)
    {q : List Word} (hq : q.length ≤ s.params.rxCap) (i : BitVec 6) :
    Invariants { armEdge (stopTimer .rxt s) with rxq := q, scheduleIndex := i } :=
  { hi with
    inactive := fun ha => absurd hact (by simpa using ha)
    exclusive := fun _ => rfl
    pending := fun _ => rfl
    index := fun hs => by simp at hs
    rxBound := hq }

theorem Invariants.enqueue {s : State} (hi : Invariants s) (hact : s.portActive = true)
    (hroom : txFull s = false) (w : Word) : Invariants (startTimer .txt (pushTx w s)) := by
  have hlt : s.txq.length < s.params.txCap :=
    lt_of_le_of_ne hi.txBound (by simpa [txFull] using hroom)
  exact { hi with
    inactive := fun ha => absurd hact (by simpa using ha)
    noWakeLost := fun _ _ => rfl
    sending := fun _ => rfl
    txBound := by simpa using hlt }

theorem Invariants.popRx {s : State} (hi : Invariants s) {w : Word} {rest : List Word}
    (hq : s.rxq = w :: rest) : Invariants { s with rxq := rest } := by
  have hb := hi.rxBound
  rw [hq] at hb
  exact { hi with rxBound := (Nat.le_succ _).trans hb }

/-- BEGIN establishes the invariants, of whatever its port was before (R211, R271). -/
theorem Invariants.activate {s : State} {c : PortConfig} (hp : s.params.wf = true)
    (hc : ConfigInv s.params c) : Invariants (activate c s) where
  params := by simpa using hp
  enabled := by simp
  inactive := by simp
  exclusive := by simp
  pending := by simp
  index := by simp
  remaining := by simp
  noWakeLost := by simp
  sending := by simp
  txBound := by simp
  rxBound := by simp
  configured := by simp
  config := by simpa using hc
  schedule := by simpa using buildSched_take _ _

/-- END stops both timers and the detector (R212), and keeps the configuration and the FIFOs. -/
theorem Invariants.deactivate {s : State} (hi : Invariants s) (retain : Bool) :
    Invariants (deactivate retain s) where
  params := by simpa using hi.params
  enabled := by simp
  inactive := by simp
  exclusive := by simp
  pending := by simp
  index := by simp
  remaining := by simp
  noWakeLost := by simp
  sending := by simp
  txBound := by simpa using hi.txBound
  rxBound := by simpa using hi.rxBound
  configured := by simp
  config := by simpa using hi.config
  schedule := by simpa using hi.schedule

/-! ## The engines -/

theorem Invariants.execTxtick {s t : State} (hi : Invariants s) (h : execTxtick s = .next t) :
    Invariants t := by
  rcases execTxtick_cases h with ⟨-, rfl⟩ | ⟨hr, h0, rfl⟩ | ⟨hr, h0, rfl⟩
  · exact hi
  · exact hi.sendBit hr h0
  · rcases betweenWords_cases s with ⟨w, rest, hq, -, -, e⟩ | ⟨-, e⟩ | ⟨hq, -, e⟩ <;> rw [e]
    · exact hi.dispatchWord hr hq
    · exact hi
    · exact hi.goIdle h0 hq

theorem Invariants.execRxedge {s t : State} (hi : Invariants s) (h : execRxedge s = .next t) :
    Invariants t := by
  rcases execRxedge_cases h with ⟨harm, -, rfl⟩ | ⟨-, rfl⟩
  · exact hi.startSampling harm
  · exact hi

/-- The index of a schedule in force is incremented without a wrap (R23, R53 I5). -/
theorem Invariants.index_succ {s : State} (hi : Invariants s) (hs : s.rxSampling = true) :
    (s.scheduleIndex + 1#6).toNat = s.scheduleIndex.toNat + 1 := by
  obtain ⟨c, f, -, hf, hx, -⟩ := hi.rxtick hs
  have hlen := (timingOf_schedLen_range hi.params f).2
  have hb := (bitCount_range f).2
  rw [← hf] at hlen
  simp only [BitVec.toNat_add, BitVec.toNat_ofNat]
  omega

/-- FINAL is the last entry and ends the character, so any other operation leaves an index inside
the schedule (R119). -/
theorem Invariants.execRxtick {s t : State} (hi : Invariants s) (h : execRxtick s = .next t) :
    Invariants t := by
  cases hs : s.rxSampling with
  | false =>
    rw [execRxtick_stopped hs] at h
    cases h
    exact hi
  | true =>
    obtain ⟨c, f, hc, hf, hx, hrun⟩ := hi.rxtick hs
    rw [hrun] at h
    rcases runMicroOp_cases h with ⟨q, tr, rfl, hq⟩ | ⟨hm, a, v, rfl⟩
    · exact { hi.endCharacter (hi.active_of_sampling hs) (hi.room hq) (s.scheduleIndex + 1#6) with }
    · have hlen := (timingOf_schedLen_range hi.params f).1
      rw [← hf] at hlen
      obtain ⟨-, -, -, -, -, -, final_last⟩ := scheduleOp_iff hlen hx
      have hlast : s.scheduleIndex.toNat + 1 ≠ c.timing.schedLen := fun e => hm (final_last.2 e)
      have hx' : (s.scheduleIndex + 1#6).toNat < (timing s).schedLen := by
        rw [hi.index_succ hs, timing_of_config hc]
        omega
      exact { hi.setIndex hx' with }

/-! ## The host commands and the step -/

theorem Invariants.hostEffect {i : Instr} {s u : State} (hi : Invariants s)
    (he : HostEffect s i u) : Invariants u := by
  cases he with
  | unchanged => exact hi
  | begins accepted resolved => exact .activate hi.params (portConfig_inv accepted resolved)
  | ends => exact hi.deactivate _
  | attaches => exact { hi with }
  | enqueues active room => exact hi.enqueue active room _
  | dequeues head => exact hi.popRx head

theorem Invariants.turnEffect {u t : State} (hi : Invariants u) (he : TurnEffect u t) :
    Invariants t := by
  cases he with
  | nothing => exact hi
  | badCommand => exact hi.complete _ _
  | line v => exact hi.lineMove v
  | cts | otherPort => exact { hi with }
  | command i host run =>
    rcases exec_host_cases host run with rfl | ⟨st, v, u', effect, rfl⟩
    · exact hi
    · exact (hi.hostEffect effect).complete st v
  | txtick run => exact hi.execTxtick run
  | rxtick run => exact hi.execRxtick run
  | rxedge run => exact hi.execRxedge run

/-- Settles O52, over the effects a turn can have. -/
theorem stepKeepsTheInvariants : Obligations.StepKeepsTheInvariants := by
  intro s t hi hs
  obtain ⟨ts, d, hp, effect⟩ := step_effect hs
  have hi' : Invariants { s with turns := ts, draws := d, hostProgram := hp } :=
    { hi with }
  exact hi'.turnEffect effect

end Sys2Proof.Machine
end

section
/-! No step reads a register that the spec leaves unspecified (10_state.md R56). Two states that
differ only there are one state and the same with other values put in those registers, so each part
of the model is run on these two side by side. -/

namespace Sys2Proof.Machine

/-! ## Other values in the unspecified registers -/

/-- The state with these values in the three registers R55 leaves unspecified. -/
def setUnread (w acc : Word) (v : Level) (s : State) : State :=
  { s with txCurrentWord := w, accumulator := acc, lastSampledLevel := v }

/-- Two states of `SameButUnread` are one with its unread registers set. -/
theorem SameButUnread.exists_setUnread {a b : State} (h : SameButUnread a b) :
    ∃ w acc v, b = setUnread w acc v a := ⟨_, _, _, h.rest⟩

theorem SameButUnread.refl (s : State) : SameButUnread s s :=
  ⟨rfl, fun _ => rfl, fun _ _ => rfl, fun _ _ => rfl⟩

/-- An operation that leaves the three registers alone, begins no word and no character and does not
move the index keeps unread what was unread. -/
theorem SameButUnread.carry {s t : State} {w acc : Word} {v : Level}
    (h : SameButUnread s (setUnread w acc v s))
    (word : t.txCurrentWord = s.txCurrentWord) (accum : t.accumulator = s.accumulator)
    (level : t.lastSampledLevel = s.lastSampledLevel) (index : t.scheduleIndex = s.scheduleIndex)
    (remaining : t.txRemaining ≠ 0#4 → s.txRemaining ≠ 0#4)
    (sampling : t.rxSampling = true → s.rxSampling = true) :
    SameButUnread t (setUnread w acc v t) where
  rest := rfl
  word hr := (h.word (remaining hr)).trans word.symm
  acc hs hx := (h.acc (sampling hs) (index ▸ hx)).trans accum.symm
  tent hs hx := (h.tent (sampling hs) (index ▸ hx)).trans level.symm

theorem SameButUnread.ite {c : Prop} [Decidable c] {x y x' y' : State} (hx : SameButUnread x x')
    (hy : SameButUnread y y') : SameButUnread (if c then x else y) (if c then x' else y') := by
  split
  · exact hx
  · exact hy

/-- Where the first run answers a next state, so does the second, and the two again differ at most
in unread registers. -/
def RunAlike (o o' : Host.Outcome State Fault Refusal) : Prop :=
  ∀ t, o = .next t → ∃ u, o' = .next u ∧ SameButUnread t u

theorem RunAlike.next {t u : State} (h : SameButUnread t u) : RunAlike (.next t) (.next u) := by
  rintro _ ⟨⟩
  exact ⟨u, rfl, h⟩

theorem RunAlike.ite {c : Prop} [Decidable c] {x y x' y' : Host.Outcome State Fault Refusal}
    (hx : RunAlike x x') (hy : RunAlike y y') :
    RunAlike (if c then x else y) (if c then x' else y') := by
  split
  · exact hx
  · exact hy

section
variable {s : State} {w acc : Word} {v : Level}

/-! ## The transmit engine -/

theorem betweenWords_alike (h : SameButUnread s (setUnread w acc v s)) :
    SameButUnread (betweenWords s) (betweenWords (setUnread w acc v s)) := by
  rcases betweenWords_cases s with ⟨x, rest, hq, he, hp, e⟩ | ⟨hp, e⟩ | ⟨hq, hp, e⟩ <;> rw [e]
  · rw [betweenWords_dispatches (s := setUnread w acc v s) hq he hp]
    exact ⟨rfl, fun _ => rfl, h.acc, h.tent⟩
  · rw [betweenWords_blocked (s := setUnread w acc v s) hp]
    exact h
  · rw [betweenWords_idles (s := setUnread w acc v s) hq hp]
    exact h.carry rfl rfl rfl rfl id id

/-- Only case A reads `txCurrentWord`, with bits of it left to send (R161, R35). -/
theorem execTxtick_alike (h : SameButUnread s (setUnread w acc v s)) :
    RunAlike (execTxtick s) (execTxtick (setUnread w acc v s)) := by
  refine .ite (.next ?_) (.next h)
  by_cases h0 : s.txRemaining = 0#4
  · rw [if_pos h0, if_pos (show (setUnread w acc v s).txRemaining = 0#4 from h0)]
    exact betweenWords_alike h
  · rw [if_neg h0, if_neg (show (setUnread w acc v s).txRemaining ≠ 0#4 from h0)]
    obtain rfl : w = s.txCurrentWord := h.word h0
    exact ⟨rfl, fun _ => rfl, h.acc, h.tent⟩

/-! ## The receive engine -/

/-- RXEDGE begins a character, before its CLEAR and its VSAMPLE. -/
theorem execRxedge_alike (h : SameButUnread s (setUnread w acc v s)) :
    RunAlike (execRxedge s) (execRxedge (setUnread w acc v s)) :=
  .ite (.next ⟨rfl, h.word, fun _ hx => absurd hx (Nat.not_lt_zero 3),
    fun _ hx => absurd hx (Nat.not_lt_zero 4)⟩) (.next h)

/-- Once the character is over, the accumulator and the recorded level are unread. -/
theorem endCharacter_alike {a b : State} (h : SameButUnread a b) :
    SameButUnread (armEdge (stopTimer .rxt a)) (armEdge (stopTimer .rxt b)) := by
  obtain ⟨w, acc, v, rfl⟩ := h.exists_setUnread
  exact h.carry rfl rfl rfl rfl id (fun hs => by simp at hs)

theorem abort_alike (cause : AbortCause) (h : SameButUnread s (setUnread w acc v s)) :
    SameButUnread (abort cause s) (abort cause (setUnread w acc v s)) :=
  (endCharacter_alike h).carry rfl rfl rfl rfl id id

theorem execStartchk_alike (h : SameButUnread s (setUnread w acc v s)) :
    RunAlike (execStartchk s) (execStartchk (setUnread w acc v s)) :=
  .next (.ite (abort_alike _ h) h)

/-- A micro-operation on states that agree in the receive registers: none reads `txCurrentWord`. -/
theorem runMicroOp_alike (m : MicroOp)
    (h : SameButUnread s (setUnread w s.accumulator s.lastSampledLevel s)) :
    RunAlike (runMicroOp m s) (runMicroOp m (setUnread w s.accumulator s.lastSampledLevel s)) := by
  cases m with
  | startchk => exact execStartchk_alike h
  | clear | vsample | shiftin => exact .next ⟨rfl, h.word, fun _ _ => rfl, fun _ _ => rfl⟩
  | vconfirm | stopchk => exact .next (.ite h (abort_alike _ h))
  | final =>
    have hd : SameButUnread (deliver s)
        (deliver (setUnread w s.accumulator s.lastSampledLevel s)) :=
      .ite (h.carry rfl rfl rfl rfl id id) (h.carry rfl rfl rfl rfl id id)
    exact .next (.ite (endCharacter_alike hd) (abort_alike _ h))

/-- Up to index 2 a schedule holds STARTCHKs, which read neither receive register; CLEAR at 3 and
VSAMPLE at 4 write them before anything reads them (R119, R40, R41). -/
theorem execRxtick_alike (hi : Invariants s) (h : SameButUnread s (setUnread w acc v s)) :
    RunAlike (execRxtick s) (execRxtick (setUnread w acc v s)) := by
  cases hs : s.rxSampling with
  | false =>
    rw [execRxtick_stopped hs, execRxtick_stopped (s := setUnread w acc v s) hs]
    exact .next h
  | true =>
    obtain ⟨c, f, -, -, -, -, he⟩ := hi.entry hs
    have hm := he ▸ decodeMicroOp_encodeMicroOp _
    have hsucc : (advanceIndex s).scheduleIndex.toNat = _ := hi.index_succ hs
    have hb := (bitCount_range f).1
    rw [execRxtick_runs hs hm, execRxtick_runs (s := setUnread w acc v s) hs hm]
    rcases (by omega : s.scheduleIndex.toNat < 3 ∨ s.scheduleIndex.toNat = 3 ∨
      s.scheduleIndex.toNat = 4 ∨ 4 < s.scheduleIndex.toNat) with h3 | h3 | h4 | h4
    · rw [scheduleOp_start h3]
      exact execStartchk_alike ⟨rfl, h.word, fun _ hx => by omega, fun _ hx => by omega⟩
    · rw [h3, scheduleOp_clear]
      exact .next ⟨rfl, h.word, fun _ _ => rfl,
        fun _ (hx : 4 < (advanceIndex s).scheduleIndex.toNat) => by omega⟩
    · rw [h4, scheduleOp_data (by omega) (by omega)]
      exact .next ⟨rfl, h.word, fun _ _ => h.acc hs (by omega), fun _ _ => rfl⟩
    · obtain rfl : acc = s.accumulator := h.acc hs (by omega)
      obtain rfl : v = s.lastSampledLevel := h.tent hs h4
      exact runMicroOp_alike _ ⟨rfl, h.word, fun _ _ => rfl, fun _ _ => rfl⟩

/-! ## The host commands -/

theorem complete_alike {a b : State} (st : Status) (val : HostField) (h : SameButUnread a b) :
    SameButUnread (complete st val a) (complete st val b) := by
  obtain ⟨w, acc, v, rfl⟩ := h.exists_setUnread
  exact h.carry rfl rfl rfl rfl id id

theorem deactivate_alike (retain : Bool) (h : SameButUnread s (setUnread w acc v s)) :
    SameButUnread (deactivate retain s) (deactivate retain (setUnread w acc v s)) := by
  cases retain <;>
    exact h.carry rfl rfl rfl rfl (fun hn => absurd rfl hn) (fun hs => by simp at hs)

/-- BEGIN overwrites all three registers, so two successful ones end in one state (R211). -/
theorem execBeginPort_alike (code : FormatCode) (baud : Rat)
    (h : SameButUnread s (setUnread w acc v s)) :
    RunAlike (execBeginPort code baud s) (execBeginPort code baud (setUnread w acc v s)) := by
  have answers (st : Status) : RunAlike (.next (complete st 0#16 s))
      (.next (complete st 0#16 (setUnread w acc v s))) := .next (complete_alike st 0#16 h)
  refine .ite ?_ (answers .invalidBaud)
  cases hr : resolve s.params code with
  | none =>
    rw [show resolve (setUnread w acc v s).params code = none from hr]
    exact answers .invalidFormat
  | some t =>
    rw [show resolve (setUnread w acc v s).params code = some t from hr]
    exact .ite (answers .portBusy) (.next (.refl _))

/-- READ and PEEK see one queue in both states. -/
theorem execRead_alike (h : SameButUnread s (setUnread w acc v s)) :
    RunAlike (execRead s) (execRead (setUnread w acc v s)) := by
  unfold execRead
  rw [show (setUnread w acc v s).rxq = s.rxq from rfl]
  cases s.rxq with
  | nil => exact .next (complete_alike _ _ h)
  | cons x rest => exact .next (h.carry rfl rfl rfl rfl id id)

theorem execPeek_alike (h : SameButUnread s (setUnread w acc v s)) :
    RunAlike (execPeek s) (execPeek (setUnread w acc v s)) := by
  unfold execPeek
  rw [show (setUnread w acc v s).rxq = s.rxq from rfl]
  cases s.rxq with
  | nil => exact .next (complete_alike _ _ h)
  | cons x rest => exact .next (complete_alike _ _ h)

theorem exec_host_alike {i : Instr} (hi : agentOf i = .host)
    (h : SameButUnread s (setUnread w acc v s)) :
    RunAlike (exec i s) (exec i (setUnread w acc v s)) := by
  cases i with
  | startchk | clear | vsample | vconfirm | shiftin | stopchk | final => cases hi
  | txtick | rxtick | rxedge => cases hi
  | beginPort code baud => exact execBeginPort_alike code baud h
  | endPort retain => exact .next (complete_alike _ _ (.ite (deactivate_alike retain h) h))
  | write byte =>
    exact .ite (.ite (.next h) (.next (h.carry rfl rfl rfl rfl id id)))
      (.next (complete_alike _ _ h))
  | read => exact execRead_alike h
  | peek => exact execPeek_alike h
  | attachfc | avail | availw => exact .next (h.carry rfl rfl rfl rfl id id)
  | flush =>
    exact .ite (.ite (.next h) (.next (complete_alike _ _ h))) (.next (complete_alike _ _ h))

/-! ## The turns and the step -/

theorem hostTurn_alike (h : SameButUnread s (setUnread w acc v s)) :
    RunAlike (hostTurn s) (hostTurn (setUnread w acc v s)) := by
  have holds (i : Instr) : hostHolds i (setUnread w acc v s) = hostHolds i s := by cases i <;> rfl
  have taken (rest : List HostCommand) : SameButUnread { s with hostProgram := rest }
      (setUnread w acc v { s with hostProgram := rest }) := h.carry rfl rfl rfl rfl id id
  rcases hostTurn_cases s with
    ⟨hp, e⟩ | ⟨c, rest, hp, ⟨err, hd, e⟩ | ⟨i, hd, ⟨hh, e⟩ | ⟨hh, e⟩⟩⟩ <;> rw [e]
  · rw [hostTurn_idle (s := setUnread w acc v s) hp]
    exact .next h
  · rw [hostTurn_bad (s := setUnread w acc v s) hp hd]
    exact .next (complete_alike _ _ (taken rest))
  · rw [hostTurn_held (s := setUnread w acc v s) hp hd ((holds i).trans hh)]
    exact .next h
  · rw [hostTurn_runs (s := setUnread w acc v s) hp hd ((holds i).trans hh)]
    exact exec_host_alike (decodeHost_agent hd) (taken rest)

theorem eventTurn_alike (code : BitVec 2) (hi : Invariants s)
    (h : SameButUnread s (setUnread w acc v s)) :
    RunAlike (eventTurn code s) (eventTurn code (setUnread w acc v s)) := by
  cases hd : decodeEvent code with
  | error e =>
    rw [eventTurn_reserved hd, eventTurn_reserved hd]
    exact .next h
  | ok i =>
    rw [eventTurn_runs hd, eventTurn_runs hd]
    rcases decodeEvent_cases hd with rfl | rfl | rfl
    · exact execTxtick_alike h
    · exact execRxtick_alike hi h
    · exact execRxedge_alike h

theorem takeTurn_alike (turn : Turn) (hi : Invariants s)
    (h : SameButUnread s (setUnread w acc v s)) :
    RunAlike (takeTurn turn s) (takeTurn turn (setUnread w acc v s)) := by
  cases turn with
  | host => exact hostTurn_alike h
  | event code => exact eventTurn_alike code hi h
  | line | cts | otherPort => exact .next (h.carry rfl rfl rfl rfl id id)

theorem nextTurn_setUnread :
    nextTurn (setUnread w acc v s) = ((nextTurn s).1, setUnread w acc v (nextTurn s).2) := by
  unfold nextTurn
  rw [show (setUnread w acc v s).turns = s.turns from rfl]
  cases s.turns <;> rfl

end

/-- Settles O55, engine by engine and command by command. -/
theorem unspecifiedValuesAreNeverRead : Obligations.UnspecifiedValuesAreNeverRead := by
  intro a b t hi h ht
  obtain ⟨w, acc, v, rfl⟩ := h.exists_setUnread
  obtain ⟨ts, d, e⟩ := nextTurn_frame a
  have hi' : Invariants (nextTurn a).2 := by
    rw [e]
    exact { hi with }
  have h' : SameButUnread (nextTurn a).2 (setUnread w acc v (nextTurn a).2) := by
    rw [e]
    exact h.carry rfl rfl rfl rfl id id
  obtain ⟨u, hu, htu⟩ := takeTurn_alike (nextTurn a).1 hi' h' t ht
  refine ⟨u, ?_, htu⟩
  rw [step, nextTurn_setUnread]
  exact hu

end Sys2Proof.Machine
end

section
/-! The state elements one by one (10_state.md): their values after construction, the inputs, FMT, and
who writes them. -/

namespace Sys2Proof.Machine

/-! ## Construction and the inputs -/

/-- Settles O4: a move of the Environment is the turn itself, and computes. -/
theorem environmentMovesInputs : Obligations.EnvironmentMovesInputs :=
  fun _ _ => ⟨rfl, rfl⟩

/-- Before the first BEGIN the port is inactive and unset, so only R7's bounds are asked (R270). -/
theorem Invariants.construct {p : Params} (h : p.wf = true) (pol rxd cts other : Bool) :
    Invariants (State.construct p pol rxd cts other) where
  params := h
  enabled := rfl
  inactive _ := ⟨rfl, rfl, rfl, rfl⟩
  exclusive := nofun
  pending := nofun
  index := nofun
  remaining := Nat.zero_le _
  noWakeLost := nofun
  sending hr := absurd rfl hr
  txBound := Nat.zero_le _
  rxBound := Nat.zero_le _
  configured := nofun
  config _ h := nomatch h
  schedule _ h := nomatch h

/-- No word of the port is written yet: the registers hold 0 (log 3) and the FIFOs are empty. -/
theorem WordsFit.construct (p : Params) (pol rxd cts other : Bool) :
    WordsFit (State.construct p pol rxd cts other) where
  currentWidth := show (0 : Nat) < _ from Nat.two_pow_pos _
  accumulatorWidth := show (0 : Nat) < _ from Nat.two_pow_pos _
  codeWidth _ h := nomatch h
  unset _ := ⟨rfl, rfl⟩
  received _ h := nomatch h
  queued _ h := nomatch h
  accumulated _ h := nomatch h

/-- Settles O51, invariant by invariant. -/
theorem constructionMeetsTheInvariants : Obligations.ConstructionMeetsTheInvariants :=
  fun p pol rxd cts other h => ⟨.construct h pol rxd cts other, .construct p pol rxd cts other⟩

/-! ## FMT -/

/-- A BEGIN that passes its checks activates the port (R211). -/
theorem exec_beginPort_ok {s : State} {code : FormatCode} {baud : Rat} {t : Timing}
    (hb : baudOk s.params baud = true) (hr : resolve s.params code = some t)
    (ho : s.otherPortActive = false) :
    exec (.beginPort code baud) s =
      .next (complete .ok 0#16 (activate (portConfig s.params.wordW code baud t) s)) := by
  simp [exec, execBeginPort, hb, hr, ho]

/-- Settles O60: FMT is the narrowed code, and `fmt` comes from the whole code. -/
theorem formatRegistersHoldTheAcceptedCode : Obligations.FormatRegistersHoldTheAcceptedCode := by
  intro s code baud hb hr ho
  obtain ⟨t, ht⟩ := Option.isSome_iff_exists.1 hr
  obtain ⟨f, hf, rfl⟩ := resolve_eq_some ht
  refine ⟨_, portConfig s.params.wordW code baud (timingOf s.params f),
    exec_beginPort_ok hb ht ho, rfl, fun j => ?_, hf, fun hfits => ⟨narrow_of_lt hfits, ?_⟩,
    fun hw hl => ?_⟩
  · exact Nat.testBit_mod_two_pow _ _ _
  · rw [show (portConfig _ _ _ _).code = narrow _ _ from rfl, ofNat_narrow hfits]
    exact hf
  · have h64 := decodeFormat_lt (code := code) (f := f) (by simpa [formatDecode, hl] using hf)
    calc code.toNat < 2 ^ 6 := h64
      _ ≤ 2 ^ s.params.wordW := Nat.pow_le_pow_right (by omega) (by omega)

/-! ## The writers (R51) -/

/-- Every instruction is a micro-operation, a host command or one of the three events (R80). -/
theorem instr_cases (i : Instr) :
    (∃ m : MicroOp, i = m.toInstr) ∨ agentOf i = .host ∨
      i = .txtick ∨ i = .rxtick ∨ i = .rxedge := by
  cases i with
  | startchk => exact .inl ⟨.startchk, rfl⟩
  | clear => exact .inl ⟨.clear, rfl⟩
  | vsample => exact .inl ⟨.vsample, rfl⟩
  | vconfirm => exact .inl ⟨.vconfirm, rfl⟩
  | shiftin => exact .inl ⟨.shiftin, rfl⟩
  | stopchk => exact .inl ⟨.stopchk, rfl⟩
  | final => exact .inl ⟨.final, rfl⟩
  | txtick => exact .inr (.inr (.inl rfl))
  | rxtick => exact .inr (.inr (.inr (.inl rfl)))
  | rxedge => exact .inr (.inr (.inr (.inr rfl)))
  | _ => exact .inr (.inl rfl)

/-- Settles O57: the engines by their frames, the host commands by their effects. -/
theorem onlyTheNamedWritersWrite : Obligations.OnlyTheNamedWritersWrite := by
  intro i s t h
  rcases instr_cases i with ⟨m, rfl⟩ | hi | rfl | rfl | rfl
  · have hm : agentOf m.toInstr = .rxTimer := by cases m <;> rfl
    rw [← runMicroOp_eq_exec] at h
    rw [runMicroOp_frame h]
    simp [hm]
  · rcases exec_host_cases hi h with rfl | ⟨st, v, u, effect, rfl⟩
    · simp
    · cases effect with
      | unchanged => simp [hi]
      | begins | ends | attaches | enqueues | dequeues => simp [agentOf]
  · rw [execTxtick_frame h]
    simp [agentOf]
  · rcases execRxtick_cases h with ⟨-, rfl⟩ | ⟨m, -, -, hm⟩
    · simp
    · rw [runMicroOp_frame hm]
      simp [agentOf]
  · rcases execRxedge_cases h with ⟨-, -, rfl⟩ | ⟨-, rfl⟩
    · simp [agentOf]
    · simp

end Sys2Proof.Machine
end

section
/-! FLUSH on an active port (44_host_interface.md R219): when it holds, what it answers, and what its
answer says of the transmitter (20_memory.md R72). -/

namespace Sys2Proof.Machine

/-- On an active port FLUSH holds until the queue is empty and the TX timer has stopped (R219). -/
theorem hostHolds_flush_eq_false {s : State} (ha : s.portActive = true) :
    hostHolds .flush s = false ↔ s.txq = [] ∧ s.txRunning = false := by
  simp [hostHolds, flushHolds, ha]

/-- A FLUSH that does not hold on an active port answers OK and changes nothing else (R219). -/
theorem exec_flush_ok {s : State} (ha : s.portActive = true) (hh : hostHolds .flush s = false) :
    exec .flush s = .next (complete .ok 0#16 s) := by
  have hf : flushHolds s = false := hh
  simp [exec, execFlush, ha, hf]

/-- While the TX timer is stopped, no bit of a word is left to send (I8 of R53). -/
theorem Invariants.txRemaining_eq_zero {s : State} (hi : Invariants s)
    (hr : s.txRunning = false) : s.txRemaining = 0#4 := by
  by_contra h0
  exact absurd (hi.sending h0) (by simp [hr])

/-- Settles O45: FLUSH waits for the queue and the timer, and I8 leaves a stopped timer no bit. -/
theorem flushMeansEverythingSent : Obligations.FlushMeansEverythingSent := by
  intro s hi ha hh
  obtain ⟨hq, hr⟩ := (hostHolds_flush_eq_false ha).1 hh
  exact ⟨exec_flush_ok ha hh, hq, hi.txRemaining_eq_zero hr, hr⟩

end Sys2Proof.Machine
end

section
/-! The encodings of the three domains (30_encoding.md): an instruction has one code word, and a code
word names at most one instruction. -/

namespace Sys2Proof

/-! ## Micro-operations and events (R86, R90) -/

theorem encode_toInstr (m : MicroOp) : encode m.toInstr = .uop (encodeMicroOp m) := by
  cases m <;> rfl

theorem decode_uop_encodeMicroOp (m : MicroOp) :
    decode (.uop (encodeMicroOp m)) = .ok m.toInstr := by
  simp only [decode, Machine.decodeMicroOp_encodeMicroOp]

/-- Each micro-operation has one code. -/
theorem encodeMicroOp_of_decodeMicroOp {code : BitVec 3} {m : MicroOp}
    (h : decodeMicroOp code = some m) : encodeMicroOp m = code := by
  unfold decodeMicroOp at h
  split at h <;> cases h <;> exact BitVec.eq_of_toNat_eq (Eq.symm ‹_›)

theorem decode_uop_eq_ok {code : BitVec 3} {i : Instr} (h : decode (.uop code) = .ok i) :
    ∃ m, decodeMicroOp code = some m ∧ i = m.toInstr := by
  cases hm : decodeMicroOp code with
  | none => simp [decode, hm] at h
  | some m =>
    simp only [decode, hm, Except.ok.injEq] at h
    exact ⟨m, rfl, h.symm⟩

theorem encode_of_decode_uop {code : BitVec 3} {i : Instr} (h : decode (.uop code) = .ok i) :
    encode i = .uop code := by
  obtain ⟨m, hm, rfl⟩ := decode_uop_eq_ok h
  rw [encode_toInstr, encodeMicroOp_of_decodeMicroOp hm]

/-- 111 alone is no micro-operation (R191). -/
theorem decodeMicroOp_eq_none_iff :
    ∀ code : BitVec 3, decodeMicroOp code = none ↔ code = 7#3 := by decide

theorem decode_uop_isOk_iff (code : BitVec 3) :
    (∃ i, decode (.uop code) = .ok i) ↔ code ≠ 7#3 := by
  rw [Ne, ← decodeMicroOp_eq_none_iff]
  constructor
  · rintro ⟨i, hi⟩
    obtain ⟨m, hm, -⟩ := decode_uop_eq_ok hi
    simp [hm]
  · intro h
    obtain ⟨m, hm⟩ := Option.ne_none_iff_exists'.1 h
    exact ⟨m.toInstr, by simp only [decode, hm]⟩

theorem encode_of_decodeEvent {code : BitVec 2} {i : Instr} (h : decodeEvent code = .ok i) :
    encode i = .event code := by
  unfold decodeEvent at h
  split at h <;> cases h <;> exact congrArg _ (BitVec.eq_of_toNat_eq (Eq.symm ‹_›))

/-- 11 alone is no event (R90). -/
theorem decodeEvent_isOk_iff (code : BitVec 2) :
    (∃ i, decodeEvent code = .ok i) ↔ code ≠ 3#2 := by
  have four : ∀ c : BitVec 2, c = 0#2 ∨ c = 1#2 ∨ c = 2#2 ∨ c = 3#2 := by decide
  rcases four code with rfl | rfl | rfl | rfl
  · exact iff_of_true ⟨.txtick, rfl⟩ (by decide)
  · exact iff_of_true ⟨.rxtick, rfl⟩ (by decide)
  · exact iff_of_true ⟨.rxedge, rfl⟩ (by decide)
  · exact iff_of_false nofun (by decide)

/-! ## Fields that are 0 -/

/-- A field is 0 when each of its bits is. -/
theorem extractLsb'_eq_zero_iff {w : Nat} (x : BitVec w) (start len : Nat) :
    x.extractLsb' start len = 0#len ↔
      ∀ i, start ≤ i → i < start + len → x.getLsbD i = false := by
  constructor
  · intro h i hs hl
    have hbit := congrArg (·.getLsbD (i - start)) h
    simpa [show i - start < len by omega, show start + (i - start) = i by omega] using hbit
  · intro h
    refine BitVec.eq_of_getLsbD_eq fun i hi => ?_
    simpa [hi] using h (start + i) (by omega) (by omega)

/-- The mask of bits 27:k of a host word: RSV, and ARG above the `k` bits a command uses (R88,
R94). -/
def zeroMask (k : Nat) : BitVec 32 := (BitVec.allOnes (28 - k)).setWidth 32 <<< k

theorem zeroMask_getLsbD {k i : Nat} (hk : k ≤ 28) :
    (zeroMask k).getLsbD i = (decide (k ≤ i) && decide (i < 28)) := by
  rw [Bool.eq_iff_iff]
  simp [zeroMask]
  omega

theorem and_zeroMask_eq_zero_iff (x : BitVec 32) {k : Nat} (hk : k ≤ 28) :
    x &&& zeroMask k = 0#32 ↔ x.extractLsb' k (28 - k) = 0#(28 - k) := by
  rw [extractLsb'_eq_zero_iff]
  constructor
  · intro h i hs hl
    have hbit := congrArg (·.getLsbD i) h
    simpa [zeroMask_getLsbD hk, hs, show i < 28 by omega] using hbit
  · intro h
    refine BitVec.eq_of_getLsbD_eq fun i _ => ?_
    rw [BitVec.getLsbD_and, zeroMask_getLsbD hk]
    by_cases hi : k ≤ i ∧ i < 28
    · simp [h i hi.1 (by omega)]
    · simp
      omega

/-- Bits 27:k are RSV and the bits of ARG from `k` up (R88). -/
theorem zeroBits_iff (x : BitVec 32) {k : Nat} (hk : k ≤ 16) :
    x.extractLsb' k (28 - k) = 0#(28 - k) ↔ x.extractLsb' 16 12 = 0#12 ∧
      (x.extractLsb' 0 16).extractLsb' k (16 - k) = 0#(16 - k) := by
  simp only [extractLsb'_eq_zero_iff, BitVec.getLsbD_extractLsb', Nat.zero_add]
  constructor
  · intro h
    exact ⟨fun i hs hl => h i (by omega) (by omega),
      fun i hs hl => by simp [h i hs (by omega)]⟩
  · rintro ⟨hr, ha⟩ i hs hl
    by_cases hi : i < 16
    · simpa [hi] using ha i hs (by omega)
    · exact hr i (by omega) (by omega)

/-! ## Host words (R88, R89, R94) -/

/-- How many low bits of ARG the command of a selector uses (R94); `none` is a reserved selector. -/
def argBits (hop : BitVec 4) : Option Nat :=
  match hop.toNat with
  | 1 => some 16
  | 2 => some 1
  | 4 => some 8
  | 3 | 5 | 6 | 7 | 8 | 9 => some 0
  | _ => none

theorem argBits_le {hop : BitVec 4} {k : Nat} (h : argBits hop = some k) : k ≤ 16 := by
  unfold argBits at h
  split at h <;> cases h <;> decide

theorem mustBeZero_eq : ∀ hop : BitVec 4, mustBeZero hop = (argBits hop).map zeroMask := by decide

/-- A decoder that answers `i` under a condition, as those of END, WRITE and the commands without
argument do. -/
theorem guarded_eq_ok_iff {p : Prop} [Decidable p] {i j : Instr} {e : DecodeError} :
    (if p then .ok i else .error e : Except DecodeError Instr) = .ok j ↔ p ∧ i = j := by
  split <;> simp [*]

theorem guarded_isOk_iff {p : Prop} [Decidable p] (i : Instr) (e : DecodeError) :
    (∃ j, (if p then .ok i else .error e : Except DecodeError Instr) = .ok j) ↔ p := by
  simp [guarded_eq_ok_iff]

/-- ATTACHFC, READ and the others of `ARG = 0` use no bit of it, so all 16 must be 0 (R94). -/
theorem withoutArgument_isOk_iff (i : Instr) (arg : HostField) :
    (∃ j, withoutArgument i arg = .ok j) ↔ arg.extractLsb' 0 (16 - 0) = 0#(16 - 0) := by
  rw [show arg.extractLsb' 0 (16 - 0) = arg from BitVec.extractLsb'_eq_self]
  exact guarded_isOk_iff i .nonZeroArgument

/-- A selector and its argument name a command when the bits of ARG it does not use are 0. -/
theorem decodeSelector_isOk_iff (hop : BitVec 4) (arg : HostField) (baud : Rat) :
    (∃ i, decodeSelector hop arg baud = .ok i) ↔
      ∃ k, argBits hop = some k ∧ arg.extractLsb' k (16 - k) = 0#(16 - k) := by
  unfold decodeSelector argBits
  split <;> simp only [*, Option.some.injEq, exists_eq_left']
  case h_1 => simp [BitVec.extractLsb'_eq_zero]
  case h_2 | h_4 => exact guarded_isOk_iff _ _
  case h_10 => simp
  all_goals exact withoutArgument_isOk_iff _ _

theorem host_wf_iff (c : HostCommand) :
    (CodeWord.host c).wf = true ↔
      ∃ k, argBits (c.word.extractLsb' 28 4) = some k ∧ c.word &&& zeroMask k = 0#32 := by
  rw [CodeWord.wf, mustBeZero_eq]
  cases argBits (c.word.extractLsb' 28 4) <;> simp

/-- A host word decodes when it has a selector and its must-be-zero bits are 0. -/
theorem decodeHost_isOk_iff (c : HostCommand) :
    (∃ i, decodeHost c = .ok i) ↔ (CodeWord.host c).wf = true := by
  have hok : (∃ i, decodeHost c = .ok i) ↔ c.word.extractLsb' 16 12 = 0#12 ∧
      ∃ i, decodeSelector (c.word.extractLsb' 28 4) (c.word.extractLsb' 0 16) c.baud = .ok i := by
    unfold decodeHost
    split <;> simp [*]
  rw [host_wf_iff, hok, decodeSelector_isOk_iff, ← exists_and_left]
  refine exists_congr fun k => ?_
  rw [and_left_comm]
  refine and_congr_right fun hk => ?_
  have h16 := argBits_le hk
  rw [and_zeroMask_eq_zero_iff _ (by omega), zeroBits_iff _ h16]

/-- END's argument is its RETAIN bit. -/
theorem retain_of_argument {arg : HostField} (h : arg.extractLsb' 1 15 = 0#15) :
    (if arg.getLsbD 0 then 1#16 else 0#16) = arg := by
  rw [extractLsb'_eq_zero_iff] at h
  refine BitVec.eq_of_getLsbD_eq fun i hi => ?_
  rcases Nat.eq_zero_or_pos i with rfl | hpos
  · cases arg.getLsbD 0 <;> rfl
  · rw [h i hpos hi]
    cases arg.getLsbD 0
    · simp
    · simp; omega

/-- WRITE's argument is its byte. -/
theorem byte_of_argument {arg : HostField} (h : arg.extractLsb' 8 8 = 0#8) :
    (arg.extractLsb' 0 8).setWidth 16 = arg := by
  rw [extractLsb'_eq_zero_iff] at h
  refine BitVec.eq_of_getLsbD_eq fun i hi => ?_
  by_cases h8 : i < 8
  · simp [h8, hi]
  · simp [h8, h i (by omega) hi]

/-- `i` is encoded by this host word, and by this baud where it is a BEGIN. -/
def EncodedBy (i : Instr) (word : BitVec 32) (baud : Rat) : Prop :=
  ∃ b, encode i = .host ⟨word, b⟩ ∧ ∀ code baud', i = .beginPort code baud' → b = baud

theorem EncodedBy.plain {i : Instr} {hop : BitVec 4} {arg : HostField} {baud : Rat}
    (hi : encode i = plainCommand hop arg) (hb : ∀ code b, i ≠ .beginPort code b) :
    EncodedBy i (hostWord hop arg) baud :=
  ⟨0, hi, fun code b h => absurd h (hb code b)⟩

/-- A command whose argument must be 0 is encoded with that argument. -/
theorem EncodedBy.withoutArgument {i j : Instr} {hop : BitVec 4} {arg : HostField} {baud : Rat}
    (h : withoutArgument i arg = .ok j) (hi : encode i = plainCommand hop 0#16)
    (hb : ∀ code b, i ≠ .beginPort code b) : EncodedBy j (hostWord hop arg) baud := by
  obtain ⟨rfl, rfl⟩ := guarded_eq_ok_iff.1 h
  exact .plain hi hb

/-- The selector and the argument that name a command are those of its code word. -/
theorem encodedBy_of_decodeSelector {hop : BitVec 4} {arg : HostField} {baud : Rat} {i : Instr}
    (h : decodeSelector hop arg baud = .ok i) : EncodedBy i (hostWord hop arg) baud := by
  have selector {n : Nat} (hn : hop.toNat = n) : BitVec.ofNat 4 n = hop := by
    rw [← hn, BitVec.ofNat_toNat, BitVec.setWidth_eq]
  unfold decodeSelector at h
  split at h
  case h_1 hn =>
    cases h
    exact ⟨baud, by rw [← selector hn]; rfl, fun _ _ e => by cases e; rfl⟩
  case h_2 hn =>
    obtain ⟨h0, rfl⟩ := guarded_eq_ok_iff.1 h
    refine .plain ?_ nofun
    rw [← selector hn, encode, retain_of_argument h0]
  case h_4 hn =>
    obtain ⟨h0, rfl⟩ := guarded_eq_ok_iff.1 h
    refine .plain ?_ nofun
    rw [← selector hn, encode, byte_of_argument h0]
  case h_10 => cases h
  all_goals exact .withoutArgument h (by rw [← selector ‹_›]; rfl) nofun

theorem encodedBy_of_decodeHost {c : HostCommand} {i : Instr} (h : decodeHost c = .ok i) :
    EncodedBy i c.word c.baud := by
  unfold decodeHost at h
  split at h
  · next h0 =>
    rw [← hostWord_of_fields c.word h0]
    exact encodedBy_of_decodeSelector h
  · cases h

/-- Settles O35, domain by domain. -/
theorem encodeDecodeGivesBackTheWord : Obligations.EncodeDecodeGivesBackTheWord := by
  refine ⟨fun c => ?_, fun _ _ h => encode_of_decode_uop h, fun _ _ h => encode_of_decodeEvent h,
    fun _ _ h => encodedBy_of_decodeHost h⟩
  cases c with
  | uop code => exact (decode_uop_isOk_iff code).trans decide_eq_true_iff.symm
  | event code => exact (decodeEvent_isOk_iff code).trans decide_eq_true_iff.symm
  | host c => exact decodeHost_isOk_iff c

/-- A byte in ARG leaves the other half 0. -/
theorem decodeSelector_write (byte : HostByte) (baud : Rat) :
    decodeSelector 4#4 (byte.setWidth 16) baud = .ok (.write byte) := by
  have hz : (byte.setWidth 16).extractLsb' 8 8 = 0#8 := by
    rw [extractLsb'_eq_zero_iff]
    intro i h8 _
    simp [BitVec.getLsbD_of_ge byte i h8]
  have hb : (byte.setWidth 16).extractLsb' 0 8 = byte := by
    rw [BitVec.extractLsb'_setWidth_of_le (by decide), BitVec.extractLsb'_eq_self]
  exact guarded_eq_ok_iff.2 ⟨hz, congrArg Instr.write hb⟩

theorem decode_encode_host {i : Instr} (h : Machine.agentOf i = .host) :
    decode (encode i) = .ok i := by
  cases i with
  | startchk | clear | vsample | vconfirm | shiftin | stopchk | final => cases h
  | txtick | rxtick | rxedge => cases h
  | beginPort code baud => exact decodeHost_hostWord 1#4 code baud
  | endPort retain =>
    refine (decodeHost_hostWord 2#4 _ 0).trans ?_
    cases retain <;> rfl
  | write byte => exact (decodeHost_hostWord 4#4 _ 0).trans (decodeSelector_write byte 0)
  | attachfc | read | peek | avail | availw | flush => exact decodeHost_hostWord _ 0#16 0

/-- Settles O34, domain by domain. -/
theorem decodeEncodeGivesBackTheInstruction : Obligations.DecodeEncodeGivesBackTheInstruction := by
  intro i _
  rcases Machine.instr_cases i with ⟨m, rfl⟩ | hi | rfl | rfl | rfl
  · rw [encode_toInstr, decode_uop_encodeMicroOp]
  · exact decode_encode_host hi
  · rfl
  · rfl
  · rfl

/-- Settles O33: fixed words, each decoded by computation. -/
theorem tableWordsDecode : Obligations.TableWordsDecode :=
  ⟨rfl, rfl, rfl, rfl, rfl, rfl, rfl, rfl, rfl, rfl, rfl, rfl⟩

end Sys2Proof
end

section
/-! Format codes (30_encoding.md R81, R82): each of the four fields of a code determines one part of
the format and is determined by it. -/

namespace Sys2Proof

theorem decodeDataBits_eq_iff {db : BitVec 2} {d : DataBits} :
    decodeDataBits db = d ↔ db = encodeDataBits d := by
  cases d <;> revert db <;> decide

/-- The codes 101 to 111 name no parity, and no parity has one of them (R81). -/
theorem decodeParity_eq_some_iff {par : BitVec 3} {p : ParityMode} :
    decodeParity par = some p ↔ par = encodeParity p := by
  cases p <;> revert par <;> decide

theorem decodeStopBits_eq_iff {sb : BitVec 1} {n : StopBits} :
    decodeStopBits (sb == 1#1) = n ↔ sb = encodeStopBits n := by
  cases n <;> revert sb <;> decide

/-- A code is put together from its fields (R81). -/
theorem eq_fields_iff (code : BitVec (10 + 1 + 3 + 2)) (rsv : BitVec 10) (sb : BitVec 1)
    (par : BitVec 3) (db : BitVec 2) :
    code = rsv ++ sb ++ par ++ db ↔ code.extractLsb' 6 10 = rsv ∧ code.extractLsb' 5 1 = sb ∧
      code.extractLsb' 2 3 = par ∧ code.extractLsb' 0 2 = db := by
  constructor
  · rintro rfl
    simp (disch := decide) only [BitVec.extractLsb'_append_eq_of_le,
      BitVec.extractLsb'_append_eq_right, Nat.reduceSub, BitVec.extractLsb'_eq_self, and_self]
  · rintro ⟨rfl, rfl, rfl, rfl⟩
    rw [BitVec.extractLsb'_append_extractLsb'_eq_extractLsb' (show 6 = 5 + 1 from rfl),
      BitVec.extractLsb'_append_extractLsb'_eq_extractLsb' (show 5 = 2 + 3 from rfl),
      BitVec.extractLsb'_append_extractLsb']

theorem decodeFormat_eq_some_iff (code : FormatCode) (f : FormatSpec) :
    decodeFormat code = some f ↔ code.extractLsb' 6 10 = 0#10 ∧
      decodeStopBits (code.getLsbD 5) = f.stopBits ∧
      decodeParity (code.extractLsb' 2 3) = some f.parityMode ∧
      decodeDataBits (code.extractLsb' 0 2) = f.dataBits := by
  obtain ⟨d, p, n⟩ := f
  simp only [decodeFormat, Option.ite_none_right_eq_some, Option.map_eq_some_iff,
    FormatSpec.mk.injEq]
  constructor
  · rintro ⟨h0, _, hp, hd, rfl, hn⟩
    exact ⟨h0, hn, hp, hd⟩
  · rintro ⟨h0, hn, hp, hd⟩
    exact ⟨h0, p, hp, hd, rfl, hn⟩

/-- Settles O36, field by field. -/
theorem formatCodesAreABijection : Obligations.FormatCodesAreABijection := by
  intro code f
  rw [decodeFormat_eq_some_iff, BitVec.getLsbD_eq_extractLsb', decodeStopBits_eq_iff,
    decodeParity_eq_some_iff, decodeDataBits_eq_iff]
  exact (eq_fields_iff code _ _ _ _).symm

end Sys2Proof
end

section
/-! The schedule BUILD_SCHED writes (40_format_resolver.md R119) as the expansion of
`SCHED <fmt>` (30_encoding.md R97). -/

namespace Sys2Proof.Machine

theorem scheduleOps_start (b L : Nat) : (List.range 4).map (scheduleOp b L) = macroStart := by
  simp [List.range_succ, scheduleOp_start, scheduleOp_clear, macroStart]

/-- The four entries of one bit (R119). -/
theorem scheduleOps_bit {b L n : Nat} (h : n < b) :
    (List.range 4).map (fun i => scheduleOp b L (4 + 4 * n + i)) = macroBit := by
  have entry : ∀ i ∈ List.range 4, scheduleOp b L (4 + 4 * n + i) =
      if i = 0 then .vsample else if i = 3 then .shiftin else .vconfirm := by
    intro i hi
    have h4 := List.mem_range.1 hi
    rw [scheduleOp_data (by omega) (by omega), show (4 + 4 * n + i) % 4 = i by omega]
  rw [List.map_congr_left entry]
  rfl

/-- The entries of the first `n` bits, by induction on them. -/
theorem scheduleOps_bits {b L n : Nat} (h : n ≤ b) :
    (List.range (4 * n)).map (fun i => scheduleOp b L (4 + i)) =
      (List.replicate n macroBit).flatten := by
  induction n with
  | zero => rfl
  | succ n ih =>
    rw [Nat.mul_succ, List.range_add, List.map_append, ih (by omega), List.map_map,
      List.replicate_succ', List.flatten_append, List.flatten_singleton,
      ← scheduleOps_bit (L := L) (show n < b by omega)]
    simp [Function.comp_def, Nat.add_assoc]

/-- The entries after the bits: STOPCHKs up to the last, which is FINAL. -/
theorem scheduleOps_stop (b n : Nat) :
    (List.range (n + 1)).map (fun i => scheduleOp b (4 + 4 * b + (n + 1)) (4 + 4 * b + i)) =
      List.replicate n .stopchk ++ [.final] := by
  have stopchks : (List.range n).map
      (fun i => scheduleOp b (4 + 4 * b + (n + 1)) (4 + 4 * b + i)) = .replicate n .stopchk := by
    refine List.eq_replicate_iff.2 ⟨by simp, fun m hm => ?_⟩
    obtain ⟨i, hi, rfl⟩ := List.mem_map.1 hm
    have := List.mem_range.1 hi
    rw [scheduleOp_stop (by omega), if_pos (by omega)]
  rw [List.range_succ, List.map_append, stopchks, List.map_singleton, scheduleOp_stop (by omega),
    if_neg (by omega)]

theorem scheduleOps_eq_macros (b n : Nat) :
    (List.range (4 + 4 * b + (n + 1))).map (scheduleOp b (4 + 4 * b + (n + 1))) =
      macroStart ++ (List.replicate b macroBit).flatten ++
        (List.replicate n .stopchk ++ [.final]) := by
  rw [List.range_add, List.range_add, List.map_append, List.map_append, List.map_map, List.map_map,
    ← scheduleOps_start b (4 + 4 * b + (n + 1)),
    ← scheduleOps_bits (L := 4 + 4 * b + (n + 1)) (Nat.le_refl b), ← scheduleOps_stop]
  rfl

/-- Settles O39: the three parts are as long as START, the bits and the stop bits are together. -/
theorem scheduleIsTheMacroExpansion : Obligations.ScheduleIsTheMacroExpansion := by
  intro p f hp
  obtain ⟨-, -, -, h2, -⟩ := (params_wf_iff p).1 hp
  have hstop : 2 ≤ p.stopTicks * f.stopBits.count :=
    le_trans h2 (Nat.le_mul_of_pos_right _ (by cases f.stopBits <;> decide))
  have hlen : (timingOf p f).schedLen =
      4 + 4 * bitCount f + (p.stopTicks * f.stopBits.count - 2 + 1) := by
    simp only [timingOf]
    omega
  rw [scheduleCodes, timingOf_bitsToSend, hlen, macroSched, macroStop, ← scheduleOps_eq_macros,
    List.map_map]
  rfl

end Sys2Proof.Machine
end

section
/-! The format resolver (40_format_resolver.md): the checks of BEGIN under the default parameters,
the timing record at its values, and the shape of a schedule. -/

namespace Sys2Proof.Machine

/-! ## The checks of BEGIN (R82, R121) -/

theorem decodeParity_isSome_iff (par : BitVec 3) : (decodeParity par).isSome ↔ par.toNat ≤ 4 := by
  revert par
  decide

/-- The layout rejects a code for its parity or for its reserved bits, and for nothing else. -/
theorem decodeFormat_isSome_iff (code : FormatCode) :
    (decodeFormat code).isSome ↔
      (code.extractLsb' 2 3).toNat ≤ 4 ∧ code.extractLsb' 6 10 = 0#10 := by
  unfold decodeFormat
  split
  · next h => rw [Option.isSome_map, decodeParity_isSome_iff, and_iff_left h]
  · next h => simp [h]

theorem resolve_isSome (p : Params) (code : FormatCode) :
    (resolve p code).isSome = (formatDecode p code).isSome := Option.isSome_map

/-- Settles O20: the default rule asks no more than a positive baud, and the default map is the
layout. -/
theorem defaultBeginChecks : Obligations.DefaultBeginChecks := by
  intro p code baud
  constructor
  · intro hr
    simp [baudOk, hr, ruleAccepts]
  · intro hm
    have layout : formatDecode p code = decodeFormat code := by simp only [formatDecode, hm]
    rw [resolve_isSome, layout]
    exact decodeFormat_isSome_iff code

/-! ## The timing record (R112 to R118) -/

theorem dataBits_count_le (d : DataBits) : d.count ≤ 8 := by cases d <;> decide

theorem stopBits_count_range (n : StopBits) : 1 ≤ n.count ∧ n.count ≤ 2 := by cases n <;> decide

theorem parityBits_eq (m : ParityMode) : parityBits m = if m = .none then 0 else 1 := by
  cases m <;> rfl

theorem parityBitMask_eq {p : Params} {f : FormatSpec} (h : f.dataBits.count < p.wordW) :
    (timingOf p f).parityBitMask =
      if f.parityMode = .none then 0 else 2 ^ f.dataBits.count := by
  rw [← oneHot_eq h]
  rfl

/-- The ones of the stop bits stand above the data and parity bits, and none is cut off (R116). -/
theorem stopBitPattern_eq {p : Params} {f : FormatSpec}
    (h : bitCount f + f.stopBits.count ≤ p.wordW) :
    (timingOf p f).stopBitPattern = (2 ^ f.stopBits.count - 1) * 2 ^ bitCount f := by
  have fits : lowMask p.wordW f.stopBits.count <<< bitCount f < 2 ^ p.wordW :=
    calc lowMask p.wordW f.stopBits.count <<< bitCount f
        < 2 ^ (f.stopBits.count + bitCount f) := Nat.shiftLeft_lt (lowMask_lt _ _)
      _ ≤ 2 ^ p.wordW := Nat.pow_le_pow_right (by omega) (by omega)
  calc (timingOf p f).stopBitPattern
      = lowMask p.wordW f.stopBits.count <<< bitCount f := narrow_of_lt fits
    _ = (2 ^ f.stopBits.count - 1) * 2 ^ bitCount f := by
      rw [lowMask_eq (by omega), Nat.shiftLeft_eq]

/-- R118: the range of `schedLen` under the default STOP_TICKS. -/
theorem timingOf_schedLen_default {p : Params} (h : p.stopTicks = 2) (f : FormatSpec) :
    25 ≤ (timingOf p f).schedLen ∧ (timingOf p f).schedLen ≤ 43 := by
  have hb := bitCount_range f
  have hn := stopBits_count_range f.stopBits
  simp only [timingOf, h]
  omega

/-- Settles O37: a frame has at most 11 bits, so no mask loses one in WORD_W bits, and the two
counts fit their 4 bits. -/
theorem timingRecordValues : Obligations.TimingRecordValues := by
  intro p f hw t b
  have hbits : b = bitCount f := by rw [bitCount, parityBits_eq]
  have hb := bitCount_range f
  have hd := dataBits_count_le f.dataBits
  have hn := stopBits_count_range f.stopBits
  rw [hbits]
  exact ⟨rfl, rfl, timingOf_bitsToSend p f, hb.1, hb.2, timingOf_txShiftCount p f,
    lowMask_eq (by omega), parityBitMask_eq (by omega), stopBitPattern_eq (by omega),
    oneHot_eq (by omega), rfl, fun h => timingOf_schedLen_default h f⟩

/-! ## The schedule (R119, R120) -/

/-- The SHIFTIN of a bit stands three entries after the VSAMPLE of the same bit (R119). -/
theorem scheduleOp_vsample_of_shiftin {b L i : Nat} (hL : 4 + 4 * b + 1 ≤ L) (hi : i < L)
    (h : scheduleOp b L i = .shiftin) : 7 ≤ i ∧ scheduleOp b L (i - 3) = .vsample := by
  obtain ⟨-, -, -, -, shiftin_iff, -, -⟩ := scheduleOp_iff hL hi
  obtain ⟨h4, hb, h3⟩ := shiftin_iff.1 h
  refine ⟨by omega, ?_⟩
  rw [scheduleOp_data (by omega) (by omega), if_pos (by omega)]

/-- Settles O38: every entry is the code of an `op(i)`, and `scheduleOp_iff` says where each
operation stands. -/
theorem scheduleIsWellShaped : Obligations.ScheduleIsWellShaped := by
  intro p f hp t
  have hlen := timingOf_schedLen_range hp f
  have hb := bitCount_range f
  refine ⟨scheduleCodes_length t, hlen.2.trans (by omega), fun i hi => ?_⟩
  have hL : 4 + 4 * t.bitsToSend.toNat + 1 ≤ t.schedLen := by
    rw [timingOf_bitsToSend]
    exact hlen.1
  obtain ⟨startchk_iff, clear_iff, -, -, shiftin_iff, -, final_iff⟩ := scheduleOp_iff hL hi
  refine ⟨scheduleOp t.bitsToSend.toNat t.schedLen i, scheduleCodes_getElem? t hi, final_iff,
    clear_iff, startchk_iff, fun h => ?_, shiftin_iff⟩
  obtain ⟨h7, hv⟩ := scheduleOp_vsample_of_shiftin hL hi h
  exact ⟨h7, by rw [scheduleCodes_getElem? t (by omega), hv]⟩

end Sys2Proof.Machine
end

section
/-! The transmit frame marshaller (41_frame_codec.md): FOLD as a parity, the parity bit ADDPARITY
sets, and the frame word bit by bit. -/

namespace Sys2Proof.Machine

/-! ## FOLD (R140) -/

theorem fold_succ (w : Nat) (v : Word) : fold (w + 1) v = (fold w v ^^ v.testBit w) := by
  simp [fold, List.range_succ]

/-- Settles O40, by induction on the width: one more 1 bit changes both parities. -/
theorem foldIsOddParity : Obligations.FoldIsOddParity := by
  intro w v
  induction w with
  | zero => simp [fold]
  | succ w ih =>
    rw [fold_succ, List.range_succ, List.countP_append, List.countP_singleton]
    cases v.testBit w with
    | false => simpa using ih
    | true =>
      rw [Bool.xor_true, Bool.not_eq_true', ← Bool.not_eq_true, ih, if_pos rfl]
      omega

/-- FOLD of two words that share no 1 bit. -/
theorem fold_or_of_disjoint {a b : Word} (h : ∀ j, (a.testBit j && b.testBit j) = false)
    (w : Nat) : fold w (a ||| b) = (fold w a ^^ fold w b) := by
  have or_eq_xor : ∀ x y : Bool, (x && y) = false → (x || y) = (x ^^ y) := by decide
  induction w with
  | zero => rfl
  | succ w ih =>
    rw [fold_succ, fold_succ, fold_succ, ih, Nat.testBit_or, or_eq_xor _ _ (h w), Bool.xor_assoc,
      Bool.xor_assoc, Bool.xor_left_comm (fold w b)]

theorem fold_two_pow (w n : Nat) : fold w (2 ^ n) = decide (n < w) := by
  induction w with
  | zero => rfl
  | succ w ih =>
    rw [fold_succ, ih, Nat.testBit_two_pow, Bool.eq_iff_iff]
    simp only [bne_iff_ne, ne_eq, decide_eq_decide, decide_eq_true_eq]
    omega

/-! ## ADDPARITY (R141) -/

/-- The parity bit of a data value; without parity there is none, and 0 stands for it. -/
def parityBit (w : Nat) (m : ParityMode) (v : Word) : Bool :=
  match m with
  | .even => fold w v
  | .odd => !fold w v
  | .mark => true
  | .space => false
  | .none => false

/-- ADDPARITY sets the bit of the parity mask when the parity bit is 1. -/
theorem addParity_eq (w : Nat) (t : Timing) (v : Word) :
    addParity w t v = if parityBit w t.parityMode v then v ||| t.parityBitMask else v := by
  unfold addParity
  cases t.parityMode with
  | odd => cases h : fold w v <;> simp [parityBit, h]
  | none | even | mark | space => rfl

theorem addParity_testBit (w : Nat) (t : Timing) (v : Word) (j : Nat) :
    (addParity w t v).testBit j =
      (v.testBit j || parityBit w t.parityMode v && t.parityBitMask.testBit j) := by
  rw [addParity_eq]
  cases parityBit w t.parityMode v <;> simp

/-- A parity bit at a place of its own counts once in FOLD. -/
theorem fold_addParity {w n : Nat} {t : Timing} {v : Word} (hn : n < w) (hv : v < 2 ^ n)
    (hm : t.parityBitMask = 2 ^ n) :
    fold w (addParity w t v) = (fold w v ^^ parityBit w t.parityMode v) := by
  have disjoint : ∀ j, (v.testBit j && (2 ^ n).testBit j) = false := by
    intro j
    rw [Nat.testBit_two_pow]
    rcases eq_or_ne n j with rfl | hj
    · rw [Nat.testBit_lt_two_pow hv, Bool.false_and]
    · simp [hj]
  rw [addParity_eq, hm]
  cases parityBit w t.parityMode v
  · simp
  · rw [if_pos rfl, fold_or_of_disjoint disjoint, fold_two_pow, decide_eq_true hn]

/-! ## ASSEMBLE at logical levels (R142, R144) -/

theorem bitCount_eq (f : FormatSpec) :
    bitCount f = f.dataBits.count + if f.parityMode = .none then 0 else 1 := by
  rw [bitCount, parityBits_eq]

/-- The byte cut to the format's data bits (R144). -/
def dataValue (p : Params) (f : FormatSpec) (byte : HostByte) : Word :=
  byte.toNat &&& (timingOf p f).dataBitsMask

theorem dataValue_lt (p : Params) (f : FormatSpec) (byte : HostByte) :
    dataValue p f byte < 2 ^ f.dataBits.count :=
  Nat.and_lt_two_pow _ (lowMask_lt _ _)

section
variable {p : Params} (hp : 11 ≤ p.wordW) (f : FormatSpec) (byte : HostByte)
include hp

theorem dataValue_testBit (j : Nat) :
    (dataValue p f byte).testBit j = (byte.getLsbD j && decide (j < f.dataBits.count)) := by
  rw [dataValue, Nat.testBit_and, (masks_testBit hp f j).1, BitVec.testBit_toNat]

/-- The logical frame word: data bits, the parity bit, stop bits, and zeros above. -/
theorem assembleLogical_testBit (j : Nat) :
    (assembleLogical p.wordW (timingOf p f) byte).testBit j =
      (byte.getLsbD j && decide (j < f.dataBits.count) ||
        parityBit p.wordW f.parityMode (dataValue p f byte) &&
          (decide (f.parityMode ≠ .none) && decide (j = f.dataBits.count)) ||
        decide (bitCount f ≤ j) && decide (j < bitCount f + f.stopBits.count)) := by
  obtain ⟨-, parity, -⟩ := masks_testBit hp f j
  rw [← dataValue_testBit hp, ← parity, ← stopBitPattern_testBit hp]
  exact (Nat.testBit_or ..).trans (congrArg (· || _) (addParity_testBit ..))

theorem assembleLogical_testBit_data {j : Nat} (hj : j < f.dataBits.count) :
    (assembleLogical p.wordW (timingOf p f) byte).testBit j = byte.getLsbD j := by
  have below : ¬ bitCount f ≤ j := by
    rw [bitCount_eq]
    omega
  simp [assembleLogical_testBit hp, hj, hj.ne, below]

theorem assembleLogical_testBit_parity (hm : f.parityMode ≠ .none) :
    (assembleLogical p.wordW (timingOf p f) byte).testBit f.dataBits.count =
      parityBit p.wordW f.parityMode (dataValue p f byte) := by
  simp [assembleLogical_testBit hp, bitCount_eq, hm]

theorem assembleLogical_testBit_stop {j : Nat} (hb : bitCount f ≤ j)
    (hj : j < bitCount f + f.stopBits.count) :
    (assembleLogical p.wordW (timingOf p f) byte).testBit j = true := by
  simp [assembleLogical_testBit hp, hb, hj]

/-- The two masks together cover the data and parity bits. -/
theorem dataAndParityMask_testBit (j : Nat) :
    ((timingOf p f).dataBitsMask ||| (timingOf p f).parityBitMask).testBit j =
      decide (j < bitCount f) := by
  obtain ⟨data, parity, -⟩ := masks_testBit hp f j
  rw [Nat.testBit_or, data, parity, bitCount_eq, Bool.eq_iff_iff]
  by_cases hm : f.parityMode = .none
  · simp [hm]
  · simp only [ne_eq, hm, not_false_eq_true, decide_true, Bool.true_and, Bool.or_eq_true,
      decide_eq_true_eq, ↓reduceIte]
    omega

/-- The two masks take the stop bits off the frame word, and leave what ADDPARITY made. -/
theorem assembleLogical_and_masks :
    assembleLogical p.wordW (timingOf p f) byte &&&
        ((timingOf p f).dataBitsMask ||| (timingOf p f).parityBitMask) =
      addParity p.wordW (timingOf p f) (dataValue p f byte) := by
  have fits : addParity p.wordW (timingOf p f) (dataValue p f byte) < 2 ^ bitCount f :=
    addParity_lt (Nat.and_lt_two_pow _ (dataBitsMask_lt p f)) (parityBitMask_lt p f)
  refine Nat.eq_of_testBit_eq fun j => ?_
  rw [Nat.testBit_and, dataAndParityMask_testBit hp]
  rcases Nat.lt_or_ge j (bitCount f) with hj | hj
  · have noStop : (timingOf p f).stopBitPattern.testBit j = false := by
      simp [stopBitPattern_testBit hp, hj]
    rw [decide_eq_true hj, Bool.and_true, assembleLogical, Nat.testBit_or, noStop, Bool.or_false]
    rfl
  · rw [decide_eq_false (by omega), Bool.and_false, Nat.testBit_lt_two_pow
      (fits.trans_le (Nat.pow_le_pow_right (by omega) hj))]

/-- FOLD of the data and parity bits of a frame that has a parity bit. -/
theorem fold_dataAndParity (hm : f.parityMode ≠ .none) :
    fold p.wordW (assembleLogical p.wordW (timingOf p f) byte &&&
        ((timingOf p f).dataBitsMask ||| (timingOf p f).parityBitMask)) =
      (fold p.wordW (dataValue p f byte) ^^
        parityBit p.wordW f.parityMode (dataValue p f byte)) := by
  have hd : f.dataBits.count < p.wordW := (dataBits_count_le _).trans_lt (by omega)
  rw [assembleLogical_and_masks hp]
  exact fold_addParity hd (dataValue_lt p f byte) (by rw [parityBitMask_eq hd, if_neg hm])

end

/-- Settles O41: in a frame with parity, FOLD of `dp` is FOLD of the data with the parity bit, and
bit `dataBits` is the parity bit. -/
theorem framesMeetTheirParity : Obligations.FramesMeetTheirParity := by
  intro p f byte hp t w dp
  have hfold := fold_dataAndParity hp f byte
  have hbit := assembleLogical_testBit_parity hp f byte
  refine ⟨fun h => ?_, fun h => ?_, fun h => ?_, fun h => ?_⟩
  · exact (hfold (by simp [h])).trans (by simp [parityBit, h])
  · exact (hfold (by simp [h])).trans (by simp [parityBit, h])
  · exact (hbit (by simp [h])).trans (by simp [parityBit, h])
  · exact (hbit (by simp [h])).trans (by simp [parityBit, h])

/-! ## Polarity (R143) -/

/-- `POL = 1` inverts the bits the shifter sends, and only those. -/
theorem assemble_testBit {p : Params} (hp : 11 ≤ p.wordW) (f : FormatSpec) (pol : Bool)
    (byte : HostByte) (j : Nat) :
    (assemble p.wordW (timingOf p f) pol byte).testBit j =
      ((assembleLogical p.wordW (timingOf p f) byte).testBit j ^^
        (pol && decide (j < (timingOf p f).txShiftCount.toNat))) := by
  have hw : (timingOf p f).txShiftCount.toNat ≤ p.wordW := by
    have hb := bitCount_range f
    have hn := stopBits_count_range f.stopBits
    rw [timingOf_txShiftCount]
    omega
  cases pol
  · simp [assemble]
  · simp [assemble, lowMask_testBit hw]

/-- Settles O42: the logical word part by part, and the polarity over it. -/
theorem frameWordLayout : Obligations.FrameWordLayout := by
  intro p f byte pol j hp t w
  have hb : t.bitsToSend.toNat = bitCount f := timingOf_bitsToSend p f
  have hs : t.txShiftCount.toNat = bitCount f + f.stopBits.count := timingOf_txShiftCount p f
  have sent (hj : j < t.txShiftCount.toNat) :
      w.testBit j = ((assembleLogical p.wordW t byte).testBit j ^^ pol) := by
    rw [assemble_testBit hp, decide_eq_true hj, Bool.and_true]
  refine ⟨fun hj => ?_, fun hbj hj => ?_, fun hj => ?_, sent⟩
  · have : f.dataBits.count ≤ bitCount f := Nat.le_add_right _ _
    rw [sent (by omega), assembleLogical_testBit_data hp f byte hj]
  · rw [sent hj, assembleLogical_testBit_stop hp f byte (by omega) (by omega)]
  · exact Nat.testBit_lt_two_pow ((assemble_lt p.wordW p f pol byte).trans_le
      (Nat.pow_le_pow_right (by omega) hj))

end Sys2Proof.Machine
end

section
/-! The transmit engine (42_transmit_engine.md): the four cases of TXTICK, and the waveform of one
character as a run of ticks. -/

namespace Sys2Proof.Machine

/-! ## The four cases of the tick (R161 to R164) -/

theorem exec_txtick (s : State) : exec .txtick s = execTxtick s := rfl

/-- Flow control permits a dispatch when it is not attached or `cts` is asserted (R160). -/
theorem permitted_eq_true_iff {s : State} :
    permitted s = true ↔ s.fcAttached = false ∨ s.cts = s.params.ctsAsserted := by
  simp [permitted]

/-- Attached flow control permits nothing while `cts` is not asserted (R160). -/
theorem permitted_eq_false_iff {s : State} :
    permitted s = false ↔ s.fcAttached = true ∧ s.cts ≠ s.params.ctsAsserted := by
  simp [permitted]

/-- Settles O14: a tick with a bit in progress is case A. -/
theorem txTickSendsTheLowBit : Obligations.TxTickSendsTheLowBit := by
  intro s hr h0
  rw [exec_txtick, execTxtick_sends hr h0]
  rfl

/-- Settles O15: between words, an enabled and permitted tick is case B. -/
theorem txTickDispatchesTheOldestWord : Obligations.TxTickDispatchesTheOldestWord := by
  intro s w rest hr h0 hq he hfc
  rw [exec_txtick, execTxtick_between hr h0,
    betweenWords_dispatches hq he (permitted_eq_true_iff.2 hfc)]
  rfl

/-- Settles O16: between words, a tick that is not permitted is case C. -/
theorem blockedTickChangesNothing : Obligations.BlockedTickChangesNothing := by
  intro s hr h0 hfc hcts
  rw [exec_txtick, execTxtick_between hr h0,
    betweenWords_blocked (permitted_eq_false_iff.2 ⟨hfc, hcts⟩)]

/-- Settles O17: between words, a permitted tick with nothing to dispatch is case D. -/
theorem txTickGoesIdle : Obligations.TxTickGoesIdle := by
  intro s hr h0 hq hfc
  rw [exec_txtick, execTxtick_between hr h0,
    betweenWords_idles hq (permitted_eq_true_iff.2 hfc)]
  rfl

/-! ## The waveform of one character (R166) -/

/-- The last of `n + 1` ticks runs in the state the first `n` ended in. -/
theorem txTicks_succ_of_next {n : Nat} {s t : State} (h : txTicks n s = .next t) :
    txTicks (n + 1) s = exec .txtick t := by
  induction n generalizing s with
  | zero =>
    cases h
    obtain ⟨u, hu⟩ := execTxtick_next t
    rw [txTicks, exec_txtick, hu]
    rfl
  | succ n ih =>
    obtain ⟨u, hu⟩ := execTxtick_next s
    rw [txTicks, exec_txtick, hu] at h ⊢
    exact ih h

/-- A counter of 4 bits that starts at `n` has not reached 0 after fewer than `n` steps. -/
theorem sub_ofNat_ne_zero {n : BitVec 4} {k : Nat} (h : k < n.toNat) :
    n - BitVec.ofNat 4 k ≠ 0#4 := by
  bv_omega

/-- Settles O43, by induction on `k`: case B at the dispatch, then one case A for each bit. -/
theorem characterWaveform : Obligations.CharacterWaveform := by
  intro s w rest k hr h0 hq he hp hk
  induction k with
  | zero =>
    rw [txTicks_succ_of_next rfl,
      txTickDispatchesTheOldestWord s w rest hr h0 hq he (permitted_eq_true_iff.1 hp)]
    simp [startLevel]
  | succ k ih =>
    have counts : (timing s).txShiftCount - BitVec.ofNat 4 k - 1#4 =
        (timing s).txShiftCount - BitVec.ofNat 4 (k + 1) := by
      rw [BitVec.sub_sub, BitVec.ofNat_add]
    rw [txTicks_succ_of_next (ih (by omega)), exec_txtick, execTxtick_sends]
    · simp [sendBit, counts, Nat.shiftRight_add]
    · exact hr
    · exact sub_ofNat_ne_zero hk

end Sys2Proof.Machine
end

section
/-! The receive engine (43_receive_engine.md), one step at a time: the receive abort, the
micro-operations, RXEDGE and RXTICK, and the steps that are not enabled. -/

namespace Sys2Proof.Machine

/-! ## The receive abort (R200) and the draw of R46 -/

theorem drawsOnArm_iff (s : State) : drawsOnArm s = true ↔ s.params.edgeLatch = .mayLatch := by
  simp [drawsOnArm]

/-- The counter of draws after ArmEdge, with the latch named. -/
theorem armEdge_draws (s : State) :
    (armEdge s).draws = if s.params.edgeLatch = .mayLatch then s.draws + 1 else s.draws := by
  rw [← if_congr (drawsOnArm_iff s) rfl rfl]
  rfl

/-- Settles O3: the abort is its timer, its detector and its trace entry. -/
theorem abortReturnsToIdle : Obligations.AbortReturnsToIdle := by
  intro cause s
  rw [← armEdge_draws s]
  rfl

/-! ## The micro-operations (R184 to R190) -/

/-- What a micro-operation samples is the logical level of the pin (R181). -/
theorem sampled_eq (s : State) : sampled s = (s.rxd ^^ s.pol) := rfl

/-- Settles O6: STARTCHK goes on from start level and aborts from idle level. -/
theorem startCheckAbortsOnIdleLevel : Obligations.StartCheckAbortsOnIdleLevel := by
  intro s
  rw [← sampled_eq]
  constructor <;> intro h <;> simp [exec, execStartchk, h]

/-- Settles O7. -/
theorem clearZeroesAccumulator : Obligations.ClearZeroesAccumulator := fun _ => rfl

/-- Settles O8. -/
theorem voteSampleRecordsLogicalLevel : Obligations.VoteSampleRecordsLogicalLevel := fun _ => rfl

/-- Settles O9: VCONFIRM goes on from the recorded level and aborts from the other. -/
theorem voteConfirmAbortsOnDisagreement : Obligations.VoteConfirmAbortsOnDisagreement := by
  intro s
  rw [← sampled_eq]
  constructor <;> intro h <;> simp [exec, execVconfirm, h]

/-- Settles O10. -/
theorem shiftInShiftsThenOrs : Obligations.ShiftInShiftsThenOrs := fun _ => rfl

/-- Settles O11: STOPCHK goes on from stop level and aborts from start level. -/
theorem stopCheckAbortsOnStartLevel : Obligations.StopCheckAbortsOnStartLevel := by
  intro s
  rw [← sampled_eq]
  constructor <;> intro h <;> simp [exec, execStopchk, h]

theorem rxFull_iff (s : State) : rxFull s = true ↔ s.rxq.length = s.params.rxCap := by
  simp [rxFull]

/-- FINAL hands over the accumulator: pushed where RXQ has room, a trace entry alone where it has
none (R190, R245). -/
theorem deliver_eq (s : State) :
    deliver s = { s with
      rxq := if s.rxq.length = s.params.rxCap then s.rxq else s.rxq ++ [s.accumulator]
      rxTrace := s.rxTrace ++
        [if s.rxq.length = s.params.rxCap then .dropped s.accumulator
         else .pushed s.accumulator] } := by
  unfold deliver
  rw [if_congr (rxFull_iff s) rfl rfl]
  split <;> rfl

theorem exec_final_delivers {s : State} (h : sampled s = true) :
    exec .final s = .next (armEdge (stopTimer .rxt (deliver s))) := by
  simp [exec, execFinal, h]

/-- Settles O12: at start level FINAL aborts, at stop level it delivers and arms the detector. -/
theorem finalPushesDropsOrAborts : Obligations.FinalPushesDropsOrAborts := by
  intro s
  rw [← sampled_eq]
  refine ⟨fun h => by simp [exec, execFinal, h], fun h => ?_⟩
  rw [exec_final_delivers h, deliver_eq, ← armEdge_draws s]
  rfl

/-! ## RXEDGE and RXTICK (R180, R182) -/

theorem exec_rxedge (s : State) : exec .rxedge s = execRxedge s := rfl

theorem exec_rxtick (s : State) : exec .rxtick s = execRxtick s := rfl

/-- Settles O5: an enabled RXEDGE disarms the detector and starts the RX timer. -/
theorem rxEdgeStartsSampling : Obligations.RxEdgeStartsSampling := by
  intro s harm hpend
  have enabled : rxedgeEnabled s = true := by simp [rxedgeEnabled, harm, hpend]
  rw [exec_rxedge, execRxedge, if_pos enabled]
  rfl

theorem execRxedge_not_enabled {s : State} (h : rxedgeEnabled s = false) :
    execRxedge s = .next s := by
  simp [execRxedge, h]

/-- Settles O13: RXTICK is its entry's micro-operation, or the fault of the reserved code. -/
theorem rxTickRunsTheIndexedEntry : Obligations.RxTickRunsTheIndexedEntry := by
  intro s hs
  refine ⟨fun m hm => ?_, fun hcode => ?_⟩
  · have run : exec .rxtick s = runMicroOp m (advanceIndex s) := execRxtick_runs hs hm
    exact ⟨run.trans (runMicroOp_eq_exec m _), run ▸ runMicroOp_next m _⟩
  · have reserved : decodeMicroOp (schedEntry s s.scheduleIndex.toNat) = none := by
      rw [hcode]
      rfl
    exact execRxtick_reserved hs reserved

/-! ## Steps that are not enabled (log 13) -/

theorem execTxtick_stopped {s : State} (h : s.txRunning = false) : execTxtick s = .next s := by
  simp [execTxtick, h]

/-- A held WRITE changes nothing (R214; log 13). -/
theorem execWrite_held {byte : HostByte} {s : State} (h : writeHolds s = true) :
    execWrite byte s = .next s := by
  obtain ⟨hact, hfull⟩ := Bool.and_eq_true_iff.1 h
  rw [execWrite, if_pos hact, if_pos hfull]

/-- A held FLUSH changes nothing (R219; log 13). -/
theorem execFlush_held {s : State} (h : flushHolds s = true) : execFlush s = .next s := by
  have hact : s.portActive = true := (Bool.and_eq_true_iff.1 h).1
  rw [execFlush, if_pos hact, if_pos h]

/-- Only WRITE and FLUSH can hold, and held they change nothing (R210). -/
theorem exec_held {i : Instr} {s : State} (h : hostHolds i s = true) : exec i s = .next s := by
  cases i with
  | write byte => exact execWrite_held h
  | flush => exact execFlush_held h
  | startchk | clear | vsample | vconfirm | shiftin | stopchk | final => cases h
  | txtick | rxtick | rxedge => cases h
  | beginPort | endPort | attachfc | read | peek | avail | availw => cases h

/-- Settles O28: one lemma for each step that can be not enabled. -/
theorem stepsNotEnabledChangeNothing : Obligations.StepsNotEnabledChangeNothing := by
  intro s
  refine ⟨fun h => execRxedge_not_enabled ?_, execRxtick_stopped, execTxtick_stopped,
    fun _ => exec_held⟩
  rcases h with h | h <;> simp [rxedgeEnabled, h]

end Sys2Proof.Machine
end

section
/-! Runs of RX ticks (43_receive_engine.md): no step stops the machine, sampling always ends, and TX
ticks and RX ticks do not disturb each other. -/

namespace Sys2Proof.Machine

/-! ## No step stops (R191, R248) -/

theorem execRxedge_next (s : State) : ∃ t, execRxedge s = .next t := by
  unfold execRxedge
  split <;> exact ⟨_, rfl⟩

/-- The reserved code is in no schedule, so RXTICK never faults. -/
theorem Invariants.execRxtick_next {s : State} (hi : Invariants s) :
    ∃ t, Machine.execRxtick s = .next t := by
  cases hs : s.rxSampling with
  | false => exact ⟨s, execRxtick_stopped hs⟩
  | true =>
    obtain ⟨_, _, -, -, -, hrun⟩ := hi.rxtick hs
    exact hrun ▸ runMicroOp_next _ _

theorem hostTurn_next (s : State) : ∃ t, hostTurn s = .next t := by
  rcases hostTurn_cases s with ⟨-, e⟩ | ⟨_, _, -, ⟨_, -, e⟩ | ⟨i, hd, ⟨-, e⟩ | ⟨-, e⟩⟩⟩ <;> rw [e]
  · exact ⟨_, rfl⟩
  · exact ⟨_, rfl⟩
  · exact ⟨_, rfl⟩
  · exact exec_host_next _ (decodeHost_agent hd)

theorem Invariants.eventTurn_next {s : State} (hi : Invariants s) (code : BitVec 2) :
    ∃ t, eventTurn code s = .next t := by
  cases hd : decodeEvent code with
  | error e => exact ⟨s, eventTurn_reserved hd s⟩
  | ok i =>
    rw [eventTurn_runs hd]
    rcases decodeEvent_cases hd with rfl | rfl | rfl
    · exact execTxtick_next s
    · exact hi.execRxtick_next
    · exact execRxedge_next s

theorem Invariants.takeTurn_next {s : State} (hi : Invariants s) (turn : Turn) :
    ∃ t, takeTurn turn s = .next t := by
  cases turn with
  | host => exact hostTurn_next s
  | event code => exact hi.eventTurn_next code
  | line v | cts v | otherPort v => exact ⟨_, rfl⟩

/-- Settles O54: only RXTICK could stop, and the invariants hold in the state that takes the turn. -/
theorem noStepStops : Obligations.NoStepStops := by
  intro s hi
  obtain ⟨ts, d, e⟩ := nextTurn_frame s
  have hi' : Invariants (nextTurn s).2 := e ▸ { hi with }
  exact hi'.takeTurn_next (nextTurn s).1

/-! ## Samples one by one (R97) -/

theorem execRxtick_frame {s t : State} (h : execRxtick s = .next t) :
    t = { s with
      scheduleIndex := t.scheduleIndex
      accumulator := t.accumulator
      lastSampledLevel := t.lastSampledLevel
      rxSampling := t.rxSampling
      edgeArmed := t.edgeArmed
      edgePending := t.edgePending
      rxq := t.rxq
      rxTrace := t.rxTrace
      draws := t.draws } := by
  rcases execRxtick_cases h with ⟨-, rfl⟩ | ⟨m, -, -, hrun⟩
  · rfl
  · rw [runMicroOp_frame hrun]
    rfl

/-- One sample is its level on the line and an RX tick; the rest of the samples follow. -/
theorem rxSamples_cons {v : Level} {vs : List Level} {s t : State}
    (h : execRxtick (lineMove (v ^^ s.pol) s) = .next t) :
    rxSamples (v :: vs) s = rxSamples vs t := by
  have hpol : t.pol = s.pol := by rw [execRxtick_frame h]; rfl
  have tick : takeTurn (.event 1#2) (lineMove (v ^^ s.pol) s) = .next t := h
  change andThen (takeTurn (.event 1#2) (lineMove (v ^^ s.pol) s))
    (takeTurns (macroRxSamples s.pol vs)) = takeTurns (macroRxSamples t.pol vs) t
  rw [tick, hpol]
  rfl

/-! ## Sampling ends (R194) -/

/-- A tick after which the receiver still samples has moved on by one entry. -/
theorem execRxtick_still_sampling {s t : State} (h : execRxtick s = .next t)
    (ht : t.rxSampling = true) :
    s.rxSampling = true ∧ t.scheduleIndex = s.scheduleIndex + 1#6 := by
  rcases execRxtick_cases h with ⟨hs, rfl⟩ | ⟨m, hs, -, hrun⟩
  · simp [hs] at ht
  · rcases runMicroOp_cases hrun with ⟨q, tr, rfl, -⟩ | ⟨-, a, v, rfl⟩
    · simp at ht
    · exact ⟨hs, rfl⟩

/-- The samples that an active port still has to see end its sampling; one that has ended stays
so (log 13). -/
theorem Invariants.rxSamples_end {s : State} (hi : Invariants s) (hact : s.portActive = true)
    {samples : List Level} (hlen : s.rxSampling = true →
      (timing s).schedLen ≤ s.scheduleIndex.toNat + samples.length) :
    ∃ t, rxSamples samples s = .next t ∧ t.rxSampling = false ∧ t.edgeArmed = true := by
  induction samples generalizing s with
  | nil =>
    have stopped : s.rxSampling = false := by
      by_contra hs
      have hs : s.rxSampling = true := by simpa using hs
      exact absurd (hlen hs) (Nat.not_le.2 (hi.index hs))
    exact ⟨s, rfl, stopped, by simpa [stopped] using hi.exclusive hact⟩
  | cons v vs ih =>
    have hi' : Invariants (Machine.lineMove (v ^^ s.pol) s) := hi.lineMove _
    obtain ⟨t, ht⟩ := hi'.execRxtick_next
    have frame := execRxtick_frame ht
    rw [rxSamples_cons ht]
    refine ih (hi'.execRxtick ht) (by rw [frame]; exact hact) fun hs => ?_
    obtain ⟨was, index⟩ := execRxtick_still_sampling ht hs
    have htiming : timing t = timing s := timing_congr (by rw [frame]; rfl)
    have hx : t.scheduleIndex.toNat = s.scheduleIndex.toNat + 1 :=
      (congrArg BitVec.toNat index).trans (hi'.index_succ was)
    have := hlen was
    rw [htiming, hx]
    rw [List.length_cons] at this
    omega

/-- Settles O49: a port that samples is active. -/
theorem samplingEndsWithinTheSchedule : Obligations.SamplingEndsWithinTheSchedule :=
  fun _ _ hi hs hlen => hi.rxSamples_end (hi.active_of_sampling hs) fun _ => hlen

/-! ## TX ticks and RX ticks (R196) -/

/-- The state `s` with the transmit elements of `r`. -/
def withTransmit (r s : State) : State :=
  { s with
    txq := r.txq
    txd := r.txd
    txCurrentWord := r.txCurrentWord
    txRemaining := r.txRemaining
    txRunning := r.txRunning }

/-- The state `s` with the receive elements of `r`. -/
def withReceive (r s : State) : State :=
  { s with
    scheduleIndex := r.scheduleIndex
    accumulator := r.accumulator
    lastSampledLevel := r.lastSampledLevel
    rxSampling := r.rxSampling
    edgeArmed := r.edgeArmed
    edgePending := r.edgePending
    rxq := r.rxq
    rxTrace := r.rxTrace
    draws := r.draws }

/-- TXTICK reads no receive element. -/
theorem execTxtick_withReceive {s t : State} (r : State) (h : execTxtick s = .next t) :
    execTxtick (withReceive r s) = .next (withReceive r t) := by
  rcases execTxtick_cases h with ⟨hr, rfl⟩ | ⟨hr, h0, rfl⟩ | ⟨hr, h0, rfl⟩
  · exact execTxtick_stopped hr
  · exact execTxtick_sends (s := withReceive r s) hr h0
  · rw [execTxtick_between (s := withReceive r s) hr h0]
    rcases betweenWords_cases s with ⟨w, rest, hq, he, hp, e⟩ | ⟨hp, e⟩ | ⟨hq, hp, e⟩ <;> rw [e]
    · rw [betweenWords_dispatches (s := withReceive r s) hq he hp]
      rfl
    · rw [betweenWords_blocked (s := withReceive r s) hp]
    · rw [betweenWords_idles (s := withReceive r s) hq hp]
      rfl

theorem withTransmit_ite (r : State) {c : Prop} [Decidable c] (x y : State) :
    withTransmit r (if c then x else y) = if c then withTransmit r x else withTransmit r y :=
  apply_ite ..

/-- A micro-operation reads no transmit element. -/
theorem runMicroOp_withTransmit {m : MicroOp} {s u : State} (r : State)
    (h : runMicroOp m s = .next u) :
    runMicroOp m (withTransmit r s) = .next (withTransmit r u) := by
  cases m with
  | clear | vsample | shiftin => cases h; rfl
  | startchk | vconfirm | stopchk => cases h; rw [withTransmit_ite]; rfl
  | final =>
    have delivers : deliver (withTransmit r s) = withTransmit r (deliver s) := by
      rw [deliver, deliver, withTransmit_ite]
      rfl
    cases h
    rw [withTransmit_ite, runMicroOp, execFinal, delivers]
    rfl

/-- RXTICK reads no transmit element. -/
theorem execRxtick_withTransmit {s u : State} (r : State) (h : execRxtick s = .next u) :
    execRxtick (withTransmit r s) = .next (withTransmit r u) := by
  rcases execRxtick_cases h with ⟨hs, rfl⟩ | ⟨m, hs, hm, hrun⟩
  · exact execRxtick_stopped hs
  · exact (execRxtick_runs (s := withTransmit r s) hs hm).trans (runMicroOp_withTransmit r hrun)

/-- Settles O56: each tick writes its own elements and reads none of the other's, so in either order
both ticks have written what they write from `s`. -/
theorem transmitAndReceiveTicksCommute : Obligations.TransmitAndReceiveTicksCommute := by
  intro s t u ht hu
  have tx : t = withTransmit t s := execTxtick_frame ht
  have rx : u = withReceive u s := execRxtick_frame hu
  have same : withReceive u t = withTransmit t u := by
    rw [tx, rx]
    rfl
  refine ⟨withTransmit t u, ?_, ?_⟩
  · have h := execRxtick_withTransmit t hu
    rwa [← tx] at h
  · have h := execTxtick_withReceive u ht
    rwa [← rx, same] at h

end Sys2Proof.Machine
end

section
/-! One character through the receive engine (43_receive_engine.md R192, R193): the bits SHIFTIN
gathers, the run of RX ticks that see a frame, and the waveform those samples are. -/

namespace Sys2Proof.Machine

/-! ## The accumulator between two SHIFTINs (R188, R192) -/

/-- The accumulator of `b` bits once the `j` lowest bits of `v` are shifted in: they stand at its
top, and SHIFTIN moves them down as the others follow. -/
def bitsReceived (b j : Nat) (v : Word) : Word := narrow b (v <<< (b - j))

theorem bitsReceived_testBit (b j : Nat) (v : Word) (k : Nat) :
    (bitsReceived b j v).testBit k =
      (decide (k < b) && (decide (b - j ≤ k) && v.testBit (k - (b - j)))) := by
  rw [bitsReceived, narrow, Nat.testBit_mod_two_pow, Nat.testBit_shiftLeft]

theorem bitsReceived_zero (b : Nat) (v : Word) : bitsReceived b 0 v = 0 := by
  rw [bitsReceived, narrow, Nat.sub_zero, Nat.shiftLeft_eq, Nat.mul_mod_left]

theorem bitsReceived_self (b : Nat) (v : Word) : bitsReceived b b v = narrow b v := by
  rw [bitsReceived, Nat.sub_self, Nat.shiftLeft_zero]

/-- One SHIFTIN moves the bits down by one and puts the next one at the top. -/
theorem bitsReceived_succ {b j : Nat} (hj : j < b) (v : Word) :
    bitsReceived b j v >>> 1 ||| (if v.testBit j then 2 ^ (b - 1) else 0) =
      bitsReceived b (j + 1) v := by
  have top (k : Nat) : (if v.testBit j then 2 ^ (b - 1) else 0).testBit k =
      (v.testBit j && decide (b - 1 = k)) := by
    cases v.testBit j <;> simp [Nat.testBit_two_pow]
  refine Nat.eq_of_testBit_eq fun k => ?_
  rw [Nat.testBit_or, Nat.testBit_shiftRight, top, bitsReceived_testBit, bitsReceived_testBit]
  rcases Nat.lt_trichotomy k (b - 1) with hk | rfl | hk
  · have index : 1 + k - (b - j) = k - (b - (j + 1)) := by omega
    have placed : b - j ≤ 1 + k ↔ b - (j + 1) ≤ k := by omega
    simp [index, placed, hk.ne', show 1 + k < b by omega, show k < b by omega]
  · have index : b - 1 - (b - (j + 1)) = j := by omega
    simp [index, show ¬ 1 + (b - 1) < b by omega, show b - 1 < b by omega,
      show b - (j + 1) ≤ b - 1 by omega]
  · simp [hk.ne, show ¬ 1 + k < b by omega, show ¬ k < b by omega]

theorem timingOf_shiftInBit {p : Params} (hp : 11 ≤ p.wordW) (f : FormatSpec) :
    (timingOf p f).shiftInBit = 2 ^ (bitCount f - 1) := by
  have hb := bitCount_range f
  exact oneHot_eq (by omega)

/-- SHIFTIN takes the next bit of a word into the accumulator. -/
theorem execShiftin_received {s : State} {b j : Nat} {v : Word} (hj : j < b)
    (hbit : (timing s).shiftInBit = 2 ^ (b - 1)) (hacc : s.accumulator = bitsReceived b j v)
    (hlevel : s.lastSampledLevel = v.testBit j) :
    execShiftin s = .next { s with accumulator := bitsReceived b (j + 1) v } := by
  rw [execShiftin, hbit, hacc, hlevel, bitsReceived_succ hj]

/-- SHIFTINs of the bits of a word from its `j`-th on complete the word. -/
theorem shiftIns_received {s : State} {b j : Nat} {v : Word} {vs : List Level}
    (hbit : (timing s).shiftInBit = 2 ^ (b - 1)) (hlen : j + vs.length = b)
    (hvs : ∀ k, vs.getD k false = v.testBit (j + k))
    (hacc : s.accumulator = bitsReceived b j v) :
    ∃ t, shiftIns vs s = .next t ∧ t.accumulator = narrow b v := by
  induction vs generalizing s j with
  | nil =>
    obtain rfl : j = b := hlen
    exact ⟨s, rfl, hacc.trans (bitsReceived_self j v)⟩
  | cons x vs ih =>
    rw [List.length_cons] at hlen
    have shifted := execShiftin_received (s := { s with lastSampledLevel := x })
      (show j < b by omega) hbit hacc (hvs 0)
    have run : shiftIns (x :: vs) s = shiftIns vs { s with
        lastSampledLevel := x, accumulator := bitsReceived b (j + 1) v } := by
      rw [shiftIns, exec, shifted]
      rfl
    rw [run]
    refine ih hbit (by omega) (fun k => ?_) rfl
    rw [Nat.add_right_comm]
    exact hvs (k + 1)

theorem wordOfBits_lt (vs : List Level) : wordOfBits vs < 2 ^ vs.length := by
  refine Nat.lt_pow_two_of_testBit _ fun j hj => ?_
  rw [wordOfBits_testBit, List.getD_eq_default _ _ hj]

/-- Settles O46: the bits are those of `wordOfBits`, shifted in from its lowest on. -/
theorem accumulatorHoldsTheBitsInOrder : Obligations.AccumulatorHoldsTheBitsInOrder := by
  intro s c vs hw hc hf hlen hacc
  have hbit : (timing s).shiftInBit = 2 ^ (vs.length - 1) := by
    rw [timing_of_config hc, hlen, hf, timingOf_shiftInBit hw, timingOf_bitsToSend]
  obtain ⟨t, run, ht⟩ := shiftIns_received (j := 0) (v := wordOfBits vs) hbit (Nat.zero_add _)
    (fun k => by rw [wordOfBits_testBit, Nat.zero_add]) (hacc.trans (bitsReceived_zero _ _).symm)
  rw [narrow_of_lt (wordOfBits_lt vs)] at ht
  exact ⟨t, run, ht, fun j => ht ▸ wordOfBits_testBit vs j⟩

/-! ## The samples of a frame (R124) -/

theorem idealSample_start (w : Word) {i : Nat} (h : i < 4) : idealSample w i = false := if_pos h

theorem idealSample_bit (w : Word) {i : Nat} (h : 4 ≤ i) :
    idealSample w i = w.testBit ((i - 4) / 4) := if_neg (Nat.not_lt.2 h)

/-- The schedule ends before the last stop bit does (R118; log 10). -/
theorem schedLen_lt {p : Params} (hp : p.wf = true) (f : FormatSpec) :
    (timingOf p f).schedLen < 4 + 4 * (bitCount f + f.stopBits.count) := by
  obtain ⟨-, -, -, -, hticks⟩ := (params_wf_iff p).1 hp
  have hn := stopBits_count_range f.stopBits
  have ticks : p.stopTicks * f.stopBits.count ≤ 4 * f.stopBits.count :=
    Nat.mul_le_mul_right _ hticks
  have e : (timingOf p f).schedLen = 4 + 4 * bitCount f + p.stopTicks * f.stopBits.count - 1 := rfl
  omega

/-- Behind the data and parity bits of a frame every entry of the schedule sees stop level. -/
theorem idealSample_stop {p : Params} (hp : p.wf = true) (f : FormatSpec) (byte : HostByte)
    {i : Nat} (hb : 4 + 4 * bitCount f ≤ i) (hi : i < (timingOf p f).schedLen) :
    idealSample (assembleLogical p.wordW (timingOf p f) byte) i = true := by
  have hlen := schedLen_lt hp f
  rw [idealSample_bit _ (by omega)]
  exact assembleLogical_testBit_stop ((params_wf_iff p).1 hp).1 f byte (by omega) (by omega)

/-- The bits a frame's receiver gathers are its data and parity bits. -/
theorem narrow_assembleLogical {p : Params} (hp : 11 ≤ p.wordW) (f : FormatSpec)
    (byte : HostByte) :
    narrow (bitCount f) (assembleLogical p.wordW (timingOf p f) byte) =
      assembleLogical p.wordW (timingOf p f) byte &&&
        ((timingOf p f).dataBitsMask ||| (timingOf p f).parityBitMask) := by
  refine Nat.eq_of_testBit_eq fun j => ?_
  rw [narrow, Nat.testBit_mod_two_pow, Nat.testBit_and, dataAndParityMask_testBit hp,
    Bool.and_comm]

/-- The data bits of a frame are the byte cut to them (R144). -/
theorem assembleLogical_and_dataBitsMask {p : Params} (hp : 11 ≤ p.wordW) (f : FormatSpec)
    (byte : HostByte) :
    assembleLogical p.wordW (timingOf p f) byte &&&
        ((timingOf p f).dataBitsMask ||| (timingOf p f).parityBitMask) &&&
        (timingOf p f).dataBitsMask =
      byte.toNat &&& (timingOf p f).dataBitsMask := by
  refine Nat.eq_of_testBit_eq fun j => ?_
  obtain ⟨data, -, -⟩ := masks_testBit hp f j
  simp only [Nat.testBit_and, Nat.testBit_or, data, BitVec.testBit_toNat]
  by_cases hj : j < f.dataBits.count
  · simp [hj, assembleLogical_testBit_data hp f byte hj]
  · simp [hj]

/-! ## What the registers hold at each entry of the schedule -/

/-- The accumulator and the recorded level when entry `i` runs, of a character whose frame word is
`frame` and which has `b` data and parity bits. -/
structure HoldsBits (frame : Word) (b i : Nat) (acc : Word) (level : Level) : Prop where
  bits  : 4 ≤ i → acc = bitsReceived b (min ((i - 4) / 4) b) frame
  level : 4 ≤ i → i < 4 + 4 * b → i % 4 ≠ 0 → level = frame.testBit ((i - 4) / 4)

section
variable {frame : Word} {b i : Nat} {acc : Word} {level : Level}

/-- Between two bits, and outside the bits, the registers may stay as they are. -/
theorem HoldsBits.keep (h : HoldsBits frame b i acc level)
    (hi : i < 3 ∨ 4 ≤ i ∧ (i % 4 = 1 ∨ i % 4 = 2) ∨ 4 + 4 * b ≤ i) :
    HoldsBits frame b (i + 1) acc level where
  bits h4 := by
    rw [h.bits (by omega)]
    congr 1
    omega
  level h4 hb _ := by
    rw [h.level (by omega) (by omega) (by omega)]
    congr 1
    omega

theorem HoldsBits.clear : HoldsBits frame b 4 0 level where
  bits _ := by rw [Nat.sub_self, Nat.zero_div, Nat.zero_min, bitsReceived_zero]
  level _ _ h := absurd rfl h

/-- VSAMPLE records the bit. -/
theorem HoldsBits.sample (h : HoldsBits frame b i acc level) (h4 : 4 ≤ i) (h0 : i % 4 = 0) :
    HoldsBits frame b (i + 1) acc (frame.testBit ((i - 4) / 4)) where
  bits _ := by
    rw [h.bits h4]
    congr 1
    omega
  level _ _ _ := by
    congr 1
    omega

/-- SHIFTIN takes the bit in. -/
theorem HoldsBits.shift (hb : i < 4 + 4 * b) (h4 : 4 ≤ i) (h3 : i % 4 = 3) :
    HoldsBits frame b (i + 1) (bitsReceived b ((i - 4) / 4 + 1) frame) level where
  bits _ := by
    congr 1
    omega
  level _ _ h := absurd (show (i + 1) % 4 = 0 by omega) h

end

/-- Every micro-operation before FINAL goes on when it sees its sample of the frame, and leaves the
registers as the next one expects them. -/
theorem runMicroOp_holdsBits {u : State} {frame : Word} {b L i : Nat}
    (h : HoldsBits frame b i u.accumulator u.lastSampledLevel) (hi : i + 1 < L)
    (hsample : sampled u = idealSample frame i)
    (hstop : 4 + 4 * b ≤ i → idealSample frame i = true)
    (hbit : (timing u).shiftInBit = 2 ^ (b - 1)) :
    ∃ a v, runMicroOp (scheduleOp b L i) u =
        .next { u with accumulator := a, lastSampledLevel := v } ∧
      HoldsBits frame b (i + 1) a v := by
  rcases (by omega : i < 3 ∨ i = 3 ∨ 4 ≤ i ∧ i < 4 + 4 * b ∨ 4 + 4 * b ≤ i)
    with h3 | rfl | ⟨h4, hb⟩ | hb
  · have low : sampled u = false := hsample.trans (idealSample_start _ (by omega))
    rw [scheduleOp_start h3]
    exact ⟨_, _, by rw [runMicroOp, execStartchk, low]; rfl, h.keep (by omega)⟩
  · rw [scheduleOp_clear]
    exact ⟨_, _, rfl, HoldsBits.clear⟩
  · have bit : sampled u = frame.testBit ((i - 4) / 4) := hsample.trans (idealSample_bit _ h4)
    rw [scheduleOp_data h4 hb]
    rcases (by omega : i % 4 = 0 ∨ (i % 4 = 1 ∨ i % 4 = 2) ∨ i % 4 = 3) with h0 | hc | h3
    · rw [if_pos h0]
      exact ⟨_, _, by rw [runMicroOp, execVsample, bit], h.sample h4 h0⟩
    · have agree : sampled u = u.lastSampledLevel :=
        bit.trans (h.level h4 hb (by omega)).symm
      rw [if_neg (by omega), if_neg (by omega)]
      exact ⟨_, _, by rw [runMicroOp, execVconfirm, if_pos agree], h.keep (by omega)⟩
    · have hacc := h.bits h4
      rw [Nat.min_eq_left (by omega)] at hacc
      rw [if_neg (by omega), if_pos h3]
      exact ⟨_, _, execShiftin_received (by omega) hbit hacc (h.level h4 hb (by omega)),
        HoldsBits.shift hb h4 h3⟩
  · have high : sampled u = true := hsample.trans (hstop hb)
    rw [scheduleOp_stop hb, if_pos (by omega)]
    exact ⟨_, _, by rw [runMicroOp, execStopchk, high]; rfl, h.keep (by omega)⟩

/-! ## The run of a character (R193) -/

/-- The port samples a character of format `f` whose frame word is `frame`, and holds what it has
received of it. -/
structure Receiving (frame : Word) (f : FormatSpec) (u : State) : Prop where
  inv       : Invariants u
  sampling  : u.rxSampling = true
  timing    : timing u = timingOf u.params f
  stops     : ∀ i, 4 + 4 * bitCount f ≤ i → i < (timingOf u.params f).schedLen →
    idealSample frame i = true
  registers : HoldsBits frame (bitCount f) u.scheduleIndex.toNat u.accumulator u.lastSampledLevel

/-- What the end of a character that was pushed as `w` leaves. -/
structure Received (w : Word) (s t : State) : Prop where
  params : t.params = s.params
  config : t.config = s.config
  rxq    : t.rxq = s.rxq ++ [w]
  trace  : t.rxTrace = s.rxTrace ++ [.pushed w]
  idle   : t.rxSampling = false
  armed  : t.edgeArmed = true

section
variable {frame : Word} {f : FormatSpec} {u : State} (h : Receiving frame f u)
include h

theorem Receiving.lineMove (v : Level) : Receiving frame f (lineMove v u) :=
  { h with inv := h.inv.lineMove v }

/-- RXTICK runs the schedule's operation for the format. -/
theorem Receiving.execRxtick_eq :
    u.scheduleIndex.toNat < (timingOf u.params f).schedLen ∧
      execRxtick u = runMicroOp (scheduleOp (bitCount f) (timingOf u.params f).schedLen
        u.scheduleIndex.toNat) (advanceIndex u) := by
  obtain ⟨c, f', hc, hf', hx, hrun⟩ := h.inv.rxtick h.sampling
  have same : timingOf u.params f' = timingOf u.params f :=
    hf'.symm.trans ((timing_of_config hc).symm.trans h.timing)
  obtain rfl : f' = f := congrArg Timing.fmt same
  rw [hf'] at hx hrun
  exact ⟨hx, hrun⟩

/-- A tick before the last one that sees its sample. -/
theorem Receiving.tick (hx : u.scheduleIndex.toNat + 1 < (timingOf u.params f).schedLen)
    (hsample : sampled u = idealSample frame u.scheduleIndex.toNat) :
    ∃ a v, execRxtick u = .next
        { advanceIndex u with accumulator := a, lastSampledLevel := v } ∧
      Receiving frame f { advanceIndex u with accumulator := a, lastSampledLevel := v } := by
  obtain ⟨-, hrun⟩ := h.execRxtick_eq
  have hbit : (Machine.timing u).shiftInBit = 2 ^ (bitCount f - 1) := by
    rw [h.timing, timingOf_shiftInBit ((params_wf_iff _).1 h.inv.params).1]
  obtain ⟨a, v, hop, hregs⟩ := runMicroOp_holdsBits (u := advanceIndex u) h.registers hx hsample
    (fun hb => h.stops _ hb (by omega)) hbit
  rw [← h.inv.index_succ h.sampling] at hregs
  exact ⟨a, v, hrun.trans hop,
    { h with inv := h.inv.execRxtick (hrun.trans hop), registers := hregs }⟩

/-- The last tick is FINAL, which pushes what the frame has above its stop bits. -/
theorem Receiving.lastTick (hroom : u.rxq.length < u.params.rxCap)
    (hx : u.scheduleIndex.toNat + 1 = (timingOf u.params f).schedLen)
    (hsample : sampled u = idealSample frame u.scheduleIndex.toNat) :
    ∃ t, execRxtick u = .next t ∧ Received (narrow (bitCount f) frame) u t := by
  obtain ⟨hlt, hrun⟩ := h.execRxtick_eq
  have hlen := (timingOf_schedLen_range h.inv.params f).1
  have high : sampled (advanceIndex u) = true :=
    hsample.trans (h.stops _ (by omega) hlt)
  obtain ⟨-, -, -, -, -, -, final_last⟩ := scheduleOp_iff hlen hlt
  have hacc : u.accumulator = narrow (bitCount f) frame := by
    rw [h.registers.bits (by omega), Nat.min_eq_right (by omega), bitsReceived_self]
  rw [hrun, final_last.2 hx, runMicroOp_eq_exec, MicroOp.toInstr, exec_final_delivers high,
    deliver_eq]
  refine ⟨_, rfl, ⟨by simp, by simp, ?_, ?_, by simp, by simp⟩⟩
  · simp [hroom.ne, hacc]
  · simp [hroom.ne, hacc]

end

/-- The level a sample puts on the line is read back as the sample, under either polarity (R14). -/
theorem sampled_lineMove (v : Level) (s : State) : sampled (lineMove (v ^^ s.pol) s) = v := by
  simp [sampled, logical]

/-- RX ticks that see the samples from the current entry to the last. -/
theorem Receiving.run {frame : Word} {f : FormatSpec} {k : Nat} {u : State}
    (h : Receiving frame f u) (hroom : u.rxq.length < u.params.rxCap)
    (hk : u.scheduleIndex.toNat + (k + 1) = (timingOf u.params f).schedLen) :
    ∃ t, rxSamples ((List.range' u.scheduleIndex.toNat (k + 1)).map (idealSample frame)) u =
        .next t ∧ Received (narrow (bitCount f) frame) u t := by
  induction k generalizing u with
  | zero =>
    obtain ⟨t, ht, received⟩ := (h.lineMove _).lastTick hroom hk
      (sampled_lineMove (idealSample frame u.scheduleIndex.toNat) u)
    exact ⟨t, rxSamples_cons ht, { received with }⟩
  | succ k ih =>
    have hx : u.scheduleIndex.toNat + 1 < (timingOf u.params f).schedLen := by omega
    have index : (u.scheduleIndex + 1#6).toNat = u.scheduleIndex.toNat + 1 :=
      h.inv.index_succ h.sampling
    have hk' : (u.scheduleIndex + 1#6).toNat + (k + 1) = (timingOf u.params f).schedLen := by
      omega
    obtain ⟨a, v, ht, next⟩ := (h.lineMove _).tick hx
      (sampled_lineMove (idealSample frame u.scheduleIndex.toNat) u)
    obtain ⟨t, hrun, received⟩ := ih next hroom hk'
    refine ⟨t, ?_, { received with }⟩
    rw [List.range'_succ, List.map_cons, rxSamples_cons ht, ← index]
    exact hrun

/-- READ takes the head of RXQ (R215). -/
theorem exec_read_head {s : State} {w : Word} {rest : List Word} (h : s.rxq = w :: rest) :
    exec .read s = .next (complete .ok (maskedValue s w) { s with rxq := rest }) := by
  rw [exec, execRead, h]

/-- Settles O47: at index 0 nothing has been received, and READ masks the word that was. -/
theorem receiverRoundTrip : Obligations.ReceiverRoundTrip := by
  intro s c byte hi hc hs h0 hroom frame w
  obtain ⟨f, hf⟩ := hi.timing_eq hc
  have hw := ((params_wf_iff _).1 hi.params).1
  have hlen := (timingOf_schedLen_range hi.params f).1
  have hindex : s.scheduleIndex.toNat = 0 := by rw [h0]; rfl
  have begun : Receiving frame f s :=
    { inv := hi
      sampling := hs
      timing := (timing_of_config hc).trans hf
      stops := fun i hb hx => by
        simp only [frame, hf]
        exact idealSample_stop hi.params f byte hb hx
      registers := ⟨fun h4 => by omega, fun h4 => by omega⟩ }
  obtain ⟨t, run, received⟩ := begun.run (k := (timingOf s.params f).schedLen - 1) hroom
    (by omega)
  have word : narrow (bitCount f) frame = w := by
    simp only [w, frame, hf]
    exact narrow_assembleLogical hw f byte
  rw [hindex, Nat.sub_add_cancel (by omega), ← List.range_eq_range', ← hf] at run
  rw [word] at received
  refine ⟨t, run, received.rxq, received.trace, received.idle, received.armed, fun hq => ?_⟩
  have head : t.rxq = [w] := by rw [received.rxq, hq]; rfl
  have masked : w &&& c.timing.dataBitsMask = byte.toNat &&& c.timing.dataBitsMask := by
    simp only [w, frame, hf]
    exact assembleLogical_and_dataBitsMask hw f byte
  rw [exec_read_head head, maskedValue, timing_of_config (received.config.trans hc), masked]
  rfl

/-! ## The samples are the waveform (R124, R166) -/

/-- Settles O48: the sample's bit is the one the transmitter drives a bit time after bit, the start
bit first. -/
theorem idealSamplesAreTheWaveform : Obligations.IdealSamplesAreTheWaveform := by
  intro s c byte rest i hp hc hf hr h0 hq he hperm hi _
  generalize c.timing.fmt = f at hf
  have htiming : timing s = timingOf s.params f := (timing_of_config hc).trans hf
  have hlen := schedLen_lt hp f
  have hshift := timingOf_txShiftCount s.params f
  rw [hf] at hq hi ⊢
  refine ⟨_, characterWaveform s _ rest (i / 4) hr h0 hq he hperm
    (by rw [htiming]; omega), ?_⟩
  rcases Nat.lt_or_ge i 4 with h4 | h4
  · rw [idealSample_start _ h4, if_pos (by omega), startLevel]
  · have index : i / 4 - 1 = (i - 4) / 4 := by omega
    rw [idealSample_bit _ h4, if_neg (by omega), index,
      assemble_testBit ((params_wf_iff _).1 hp).1, decide_eq_true (by omega), Bool.and_true]

end Sys2Proof.Machine
end

section
/-! The host commands one by one (44_host_interface.md): which of them hold and when, what each
changes and answers, and how a dispatching tick releases a held WRITE (R220). -/

namespace Sys2Proof.Machine

/-! ## Holds (R210) -/

theorem hostHolds_write_iff {s : State} {byte : HostByte} :
    hostHolds (.write byte) s = true ↔ s.portActive = true ∧ s.txq.length = s.params.txCap := by
  simp [hostHolds, writeHolds, txFull]

theorem hostHolds_flush_iff {s : State} :
    hostHolds .flush s = true ↔ s.portActive = true ∧ (s.txq ≠ [] ∨ s.txRunning = true) := by
  simp [hostHolds, flushHolds]

/-- Settles O31: WRITE and FLUSH by their conditions, every other instruction by none. -/
theorem onlyWriteAndFlushHold : Obligations.OnlyWriteAndFlushHold := by
  intro i s
  cases i with
  | write byte => simp [hostHolds_write_iff]
  | flush => simp [hostHolds_flush_iff]
  | startchk | clear | vsample | vconfirm | shiftin | stopchk | final => simp [hostHolds]
  | txtick | rxtick | rxedge => simp [hostHolds]
  | beginPort | endPort | attachfc | read | peek | avail | availw => simp [hostHolds]

/-- Nothing holds on an inactive port (R214, R219). -/
theorem hostHolds_inactive {i : Instr} {s : State} (ha : s.portActive = false) :
    hostHolds i s = false := by
  by_contra hh
  obtain ⟨hactive, -⟩ := (onlyWriteAndFlushHold i s).1 (by simpa using hh)
  simp [ha] at hactive

/-! ## BEGIN, END and ATTACHFC (R211 to R213) -/

/-- Settles O18: the checks pass, and `activate` and `complete` give the record field by field. -/
theorem beginActivatesThePort : Obligations.BeginActivatesThePort := by
  intro s code baud t hb hr ho
  rw [exec_beginPort_ok hb hr ho, ← if_congr (drawsOnArm_iff s) rfl rfl]
  simp only [complete, activate_fields]
  rfl

/-- END of an active port deactivates it, and of an inactive one only answers (R212). -/
theorem exec_endPort (retain : Bool) (s : State) :
    exec (.endPort retain) s =
      .next (complete .ok 0#16 (if s.portActive = true then deactivate retain s else s)) := rfl

/-- Settles O21, `txd` retained or released on the active port. -/
theorem endDeactivatesThePort : Obligations.EndDeactivatesThePort := by
  intro s retain
  constructor <;> intro ha <;> rw [exec_endPort]
  · rw [if_pos ha]
    cases retain <;> rfl
  · rw [if_neg (by simp [ha])]
    rfl

/-- Settles O22: ATTACHFC has no condition, and computes. -/
theorem attachSetsFlowControl : Obligations.AttachSetsFlowControl := fun _ => rfl

/-! ## WRITE (R214, R220) -/

/-- On an active port with room WRITE queues the frame of its byte and starts the timer (R214). -/
theorem exec_write_enqueues {s : State} (byte : HostByte) (ha : s.portActive = true)
    (hroom : s.txq.length ≠ s.params.txCap) :
    exec (.write byte) s = .next (complete .ok 1#16
      (startTimer .txt (pushTx (assemble s.params.wordW (timing s) s.pol byte) s))) := by
  simp [exec, execWrite, txFull, ha, hroom]

theorem exec_write_inactive {s : State} (byte : HostByte) (ha : s.portActive = false) :
    exec (.write byte) s = .next (complete .inactive 0#16 s) := by
  simp [exec, execWrite, ha]

/-- Settles O23: the three cases of WRITE. -/
theorem writeEnqueuesHoldsOrRefuses : Obligations.WriteEnqueuesHoldsOrRefuses := by
  intro s byte
  refine ⟨fun ha hroom => ⟨?_, exec_write_enqueues byte ha hroom⟩,
    fun ha hfull => hostHolds_write_iff.2 ⟨ha, hfull⟩,
    fun ha => ⟨hostHolds_inactive ha, exec_write_inactive byte ha⟩⟩
  rw [← Bool.not_eq_true, hostHolds_write_iff]
  exact fun h => hroom h.2

/-- Settles O44: a full TXQ is not empty, so I7 keeps the timer running and the tick is case B, which
leaves the room that WRITE needs. -/
theorem dispatchReleasesAHeldWrite : Obligations.DispatchReleasesAHeldWrite := by
  intro s byte hi ha hfull h0 hp
  obtain ⟨-, hcap, -⟩ := (params_wf_iff _).1 hi.params
  obtain ⟨w, rest, hq⟩ := List.exists_cons_of_length_pos (l := s.txq) (by omega)
  have hr : s.txRunning = true := hi.noWakeLost ha (by simp [hq])
  have he : s.txEnabled = true := hi.enabled.trans ha
  have slot : rest.length + 1 = s.params.txCap := by rw [← hfull, hq, List.length_cons]
  have tick : exec .txtick s = .next (dispatchWord w rest s) :=
    txTickDispatchesTheOldestWord s w rest hr h0 hq he (permitted_eq_true_iff.1 hp)
  have room : (dispatchWord w rest s).txq.length ≠ (dispatchWord w rest s).params.txCap := by
    simp only [dispatchWord_fields]
    omega
  refine ⟨exec_held (hostHolds_write_iff.2 ⟨ha, hfull⟩), _, _, tick, slot,
    exec_write_enqueues byte ha room, ?_, rfl⟩
  rw [hq]
  rfl

/-! ## READ and PEEK (R215, R216) -/

/-- PEEK shows the head of RXQ (R216). -/
theorem exec_peek_head {s : State} {w : Word} {rest : List Word} (h : s.rxq = w :: rest) :
    exec .peek s = .next (complete .ok (maskedValue s w) s) := by
  rw [exec, execPeek, h]

theorem exec_read_empty {s : State} (h : s.rxq = []) :
    exec .read s = .next (complete .empty 0#16 s) := by
  rw [exec, execRead, h]

theorem exec_peek_empty {s : State} (h : s.rxq = []) :
    exec .peek s = .next (complete .empty 0#16 s) := by
  rw [exec, execPeek, h]

/-- Settles O24: READ and PEEK with a word in RXQ, and with none. -/
theorem readAndPeekReturnTheHead : Obligations.ReadAndPeekReturnTheHead :=
  fun _ _ _ => ⟨fun h => ⟨exec_read_head h, exec_peek_head h⟩,
    fun h => ⟨exec_read_empty h, exec_peek_empty h⟩⟩

/-! ## AVAIL and AVAILW (R217, R218) -/

theorem naturalValue_of_lt {n : Nat} (h : n < 65536) : naturalValue n = BitVec.ofNat 16 n :=
  if_pos h

theorem exec_avail (s : State) :
    exec .avail s = .next (complete .ok (naturalValue s.rxq.length) s) := rfl

theorem exec_availw (s : State) :
    exec .availw s = .next (complete .ok (naturalValue (s.params.txCap - s.txq.length)) s) := rfl

/-- Settles O25: VALUE is the count where 16 bits hold it, and some value always. -/
theorem countsAreReturned : Obligations.CountsAreReturned := by
  intro s
  refine ⟨fun h => ?_, fun h => ?_, ⟨_, exec_avail s⟩, ⟨_, exec_availw s⟩⟩
  · rw [exec_avail, naturalValue_of_lt h]
    rfl
  · rw [exec_availw, naturalValue_of_lt h]
    rfl

/-! ## FLUSH (R219) -/

theorem exec_flush_inactive {s : State} (ha : s.portActive = false) :
    exec .flush s = .next (complete .inactive 0#16 s) := by
  simp [exec, execFlush, ha]

/-- Settles O26: the three cases of FLUSH. -/
theorem flushWaitsForIdle : Obligations.FlushWaitsForIdle := by
  intro s
  refine ⟨fun ha hq hr => ?_, fun ha hbusy => hostHolds_flush_iff.2 ⟨ha, hbusy⟩,
    fun ha => ⟨hostHolds_inactive ha, exec_flush_inactive ha⟩⟩
  have free : hostHolds .flush s = false := (hostHolds_flush_eq_false ha).2 ⟨hq, hr⟩
  exact ⟨free, exec_flush_ok ha free⟩

end Sys2Proof.Machine
end

section
/-! Rejections and exclusions (60_exceptions.md): the host words that are no command (R249), the
checks of BEGIN in their order (R243), and the two RX steps that are never enabled together (R253). -/

namespace Sys2Proof.Machine

/-! ## BAD_COMMAND (R249) -/

/-- A host word is ill-formed when its selector is reserved, which leaves it no mask, or when a bit
that its selector's mask asks to be 0 is set (R88, R89, R94). -/
theorem host_not_wf_iff (c : HostCommand) :
    (CodeWord.host c).wf = false ↔
      ∀ m, mustBeZero (c.word.extractLsb' 28 4) = some m → c.word &&& m ≠ 0#32 := by
  rw [CodeWord.wf]
  cases mustBeZero (c.word.extractLsb' 28 4) with
  | none => simp
  | some m => simp

/-- The decoder rejects every ill-formed host word (R92). -/
theorem decodeHost_eq_error {c : HostCommand} (h : (CodeWord.host c).wf = false) :
    ∃ e, decodeHost c = .error e := by
  cases hd : decodeHost c with
  | error e => exact ⟨e, rfl⟩
  | ok i =>
    have wf : (CodeWord.host c).wf = true := (decodeHost_isOk_iff c).1 ⟨i, hd⟩
    simp [h] at wf

/-- Settles O32: the word is ill-formed, so the decoder rejects it and the Host's turn answers
BAD_COMMAND. -/
theorem badCommandChangesNothing : Obligations.BadCommandChangesNothing := by
  intro s ts c cs ht hp hbad
  obtain ⟨e, he⟩ := decodeHost_eq_error ((host_not_wf_iff c).2 hbad)
  rw [step_cons ht]
  exact hostTurn_bad (s := { s with turns := ts }) hp he

/-! ## The checks of BEGIN (R243) -/

section
variable {s : State} {code : FormatCode} {baud : Rat}

theorem exec_beginPort_invalidBaud (hb : baudOk s.params baud = false) :
    exec (.beginPort code baud) s = .next (complete .invalidBaud 0#16 s) := by
  simp [exec, execBeginPort, hb]

theorem exec_beginPort_invalidFormat (hb : baudOk s.params baud = true)
    (hr : resolve s.params code = none) :
    exec (.beginPort code baud) s = .next (complete .invalidFormat 0#16 s) := by
  simp [exec, execBeginPort, hb, hr]

theorem exec_beginPort_portBusy {t : Timing} (hb : baudOk s.params baud = true)
    (hr : resolve s.params code = some t) (ho : s.otherPortActive = true) :
    exec (.beginPort code baud) s = .next (complete .portBusy 0#16 s) := by
  simp [exec, execBeginPort, hb, hr, ho]

end

/-- Settles O19: each check fails after the ones before it have passed, and the command only
answers. -/
theorem beginRejectsInOrder : Obligations.BeginRejectsInOrder := by
  intro s code baud
  refine ⟨exec_beginPort_invalidBaud, exec_beginPort_invalidFormat, fun hb hr ho => ?_⟩
  obtain ⟨t, ht⟩ := Option.isSome_iff_exists.1 hr
  exact exec_beginPort_portBusy hb ht ho

/-! ## RXEDGE and RXTICK (R253) -/

/-- Settles O50: a port that samples is active, so I3 leaves its edge detector disarmed. -/
theorem edgeAndSampleTickExclusive : Obligations.EdgeAndSampleTickExclusive := by
  rintro s hi ⟨hedge, hsampling⟩
  obtain ⟨harm, -⟩ : s.edgeArmed = true ∧ s.edgePending = true := by
    simpa [rxedgeEnabled] using hedge
  have disarmed := hi.exclusive (hi.active_of_sampling hsampling)
  simp [hsampling, harm] at disarmed

end Sys2Proof.Machine
end

section
/-! Reset and timing (70_reset_and_hazards.md): the port just constructed and its first commands (R270,
R275), and the instants of the receive schedule against the bits on the line (R291). -/

namespace Sys2Proof.Machine

/-! ## The port just constructed (R270, R275) -/

/-- Settles O1: construction assigns each register, and the reset is a construction by definition. -/
theorem constructedPortIsInert : Obligations.ConstructedPortIsInert :=
  fun _ _ _ _ _ => ⟨rfl, rfl, rfl, rfl, rfl, rfl, rfl, rfl, rfl, rfl, rfl, rfl, rfl, rfl, rfl, rfl, rfl,
    rfl, Config.defaultParams, false, true, false, false, rfl⟩

/-- Settles O2: the port just constructed is inactive and its FIFOs are empty, which picks one case
of each command. -/
theorem firstCommandsBeforeBegin : Obligations.FirstCommandsBeforeBegin := by
  intro p pol rxd cts other retain b hcap s
  have inactive : s.portActive = false := rfl
  have noWord : s.rxq = [] := rfl
  have count : 0#16 ++ BitVec.ofNat 16 s.rxq.length = 0x00000000#32 := by rw [noWord]; rfl
  obtain ⟨-, empty⟩ := readAndPeekReturnTheHead s 0 []
  obtain ⟨avail, availw, -⟩ := countsAreReturned s
  rw [count] at avail
  obtain ⟨-, -, write⟩ := writeEnqueuesHoldsOrRefuses s b
  obtain ⟨-, -, flush⟩ := flushWaitsForIdle s
  obtain ⟨-, endPort⟩ := endDeactivatesThePort s retain
  exact ⟨(empty noWord).1, (empty noWord).2, avail (Nat.zero_lt_succ _), (write inactive).2,
    (flush inactive).2, availw hcap, endPort inactive⟩

/-! ## Instants in bit periods (R124, R291) -/

theorem mem_sampleIndices_iff {i j : Nat} :
    i ∈ sampleIndices j ↔ 4 + 4 * j ≤ i ∧ i ≤ 6 + 4 * j := by
  simp only [sampleIndices, List.mem_cons, List.not_mem_nil, or_false]
  omega

/-- Entry `i` runs `(i + 1) / 4` receiver bit periods after the start edge, each of them `r · T`. -/
theorem rxTickInstant_eq (T r : Rat) (i : Nat) :
    rxTickInstant (sampleIntervalAt T r) i = r * ((i + 1) / 4) * T := by
  rw [rxTickInstant, sampleIntervalAt]
  ring

theorem insideBit_mul_iff {T : Rat} (hT : 0 < T) (j : Nat) (x : Rat) :
    insideBit T j (x * T) ↔ 1 + j ≤ x ∧ x ≤ 2 + j :=
  and_congr (mul_le_mul_iff_left₀ hT) (mul_le_mul_iff_left₀ hT)

/-! ## The bounds on the clock ratio (R291) -/

section
variable {r c j : Rat}

/-- A sample 1/4 into bit `j`: the bound that keeps it from coming early is tightest at the last
bit `c`. For `1 ≤ r` it always holds; for `r ≤ 1` going back from `c` to `j` takes no more from the
right side than from the left. -/
theorem quarterSample_after_start (hj : 0 ≤ j) (hjc : j ≤ c) (h : c + 1 ≤ r * (c + 5 / 4)) :
    1 + j ≤ r * (j + 5 / 4) := by
  rcases le_total 1 r with hr | hr
  · calc 1 + j ≤ 1 * (j + 5 / 4) := by linarith
      _ ≤ r * (j + 5 / 4) := mul_le_mul_of_nonneg_right hr (by linarith)
  · have shift : r * (c - j) ≤ c - j := mul_le_of_le_one_left (sub_nonneg.2 hjc) hr
    linarith

/-- A sample 3/4 into the bit before `j`: the bound that keeps it from coming late is likewise
tightest at bit `c`. -/
theorem threeQuarterSample_before_end (hj : 0 ≤ j) (hjc : j ≤ c) (h : r * (c + 3 / 4) ≤ c + 1) :
    r * (j + 3 / 4) ≤ 1 + j := by
  rcases le_total r 1 with hr | hr
  · calc r * (j + 3 / 4) ≤ 1 * (j + 3 / 4) := mul_le_mul_of_nonneg_right hr (by linarith)
      _ ≤ 1 + j := by linarith
  · have shift : c - j ≤ r * (c - j) := le_mul_of_one_le_left (sub_nonneg.2 hjc) hr
    linarith

end

/-- The samples of a data or parity bit are 1/4, 1/2 and 3/4 into it (R124), so the bounds on the
first and the last hold for all three. -/
theorem insideBit_of_mem_sampleIndices {T r : Rat} {b j i : Nat} (hT : 0 < T) (hr : 0 ≤ r)
    (early : (b + 1 : Rat) ≤ r * (b + 5 / 4)) (late : r * (b + 3 / 4) ≤ (b + 1 : Rat)) (hj : j < b)
    (hi : i ∈ sampleIndices j) : insideBit T j (rxTickInstant (sampleIntervalAt T r) i) := by
  obtain ⟨first, last⟩ := mem_sampleIndices_iff.1 hi
  have hjb : (j + 1 : Rat) ≤ b := by exact_mod_cast hj
  have hfirst : (4 + 4 * j : Rat) ≤ i := by exact_mod_cast first
  have hlast : (i : Rat) ≤ 6 + 4 * j := by exact_mod_cast last
  rw [rxTickInstant_eq, insideBit_mul_iff hT]
  constructor
  · calc (1 + j : Rat) ≤ r * (j + 5 / 4) := quarterSample_after_start j.cast_nonneg (by linarith) early
      _ ≤ r * ((i + 1) / 4) := mul_le_mul_of_nonneg_left (by linarith) hr
  · calc r * ((i + 1) / 4) ≤ r * ((j + 1 : Rat) + 3 / 4) :=
          mul_le_mul_of_nonneg_left (by linarith) hr
      _ ≤ 1 + (j + 1 : Rat) := threeQuarterSample_before_end (by positivity) hjb late
      _ = 2 + j := by ring

/-- R118 with the default STOP_TICKS: a bit takes four entries and a stop bit two, less the last. -/
theorem timingOf_schedLen_add_one {p : Params} (h : p.stopTicks = 2) (f : FormatSpec) :
    (timingOf p f).schedLen + 1 = 4 + 4 * bitCount f + 2 * f.stopBits.count := by
  have hn := stopBits_count_range f.stopBits
  simp only [timingOf, h]
  omega

/-- Settles O58: the samples of the bits by the lemma above; FINAL is 1/4 into the stop bit, where
the same two bounds hold it. -/
theorem samplesFallInsideTheirBits : Obligations.SamplesFallInsideTheirBits := by
  intro p f T r hp hf hT b hlow hhigh
  have hb : (0 : Rat) ≤ b := b.cast_nonneg
  have early : (b + 1 : Rat) ≤ r * (b + 5 / 4) := (div_le_iff₀ (by linarith)).1 hlow
  have late : r * (b + 3 / 4) ≤ (b + 1 : Rat) := (le_div_iff₀ (by linarith)).1 hhigh
  have hr : 0 ≤ r := le_trans (by positivity) hlow
  refine ⟨fun j hj i hi => insideBit_of_mem_sampleIndices hT hr early late hj hi, ?_⟩
  have final : (timingOf p f).schedLen - 1 = 4 + 4 * b := by
    have hlen := timingOf_schedLen_add_one hp f
    rw [hf] at hlen
    exact Nat.sub_eq_of_eq_add (Nat.succ.inj hlen)
  have position : ((4 + 4 * b : Nat) + 1 : Rat) / 4 = b + 5 / 4 := by
    push_cast
    ring
  have slow : r * (0 + 3 / 4) ≤ 1 + 0 := threeQuarterSample_before_end le_rfl hb late
  rw [final, rxTickInstant_eq, insideBit_mul_iff hT, position]
  constructor <;> linarith

/-! ## The end of a character (R291, R292) -/

/-- At ratio 1 the last entry runs `(2n − 1)/4` bit periods into the `n` stop bits (R118, R291). -/
theorem rearmInstant_eq {p : Params} (h : p.stopTicks = 2) (f : FormatSpec) (T : Rat) :
    rearmInstant (sampleIntervalAt T 1) (timingOf p f).schedLen =
      (1 + bitCount f + (2 * f.stopBits.count - 1) / 4) * T := by
  have hlen : ((timingOf p f).schedLen + 1 : Rat) = 4 + 4 * bitCount f + 2 * f.stopBits.count := by
    exact_mod_cast timingOf_schedLen_add_one h f
  rw [rearmInstant, sampleIntervalAt, eq_sub_of_add_eq hlen]
  ring

theorem characterTime_timingOf (p : Params) (f : FormatSpec) (T : Rat) :
    characterTime T (timingOf p f) = (1 + bitCount f + f.stopBits.count) * T := by
  rw [characterTime, timingOf_txShiftCount]
  push_cast
  ring

/-- Settles O59: of `n` stop bits the receiver waits for less than half. -/
theorem rearmedBeforeTheNextCharacter : Obligations.RearmedBeforeTheNextCharacter := by
  intro p f T hp hT t b n
  have rearm : rearmInstant (sampleIntervalAt T 1) t.schedLen = (1 + b + (2 * n - 1) / 4) * T :=
    rearmInstant_eq hp f T
  have hn : 0 ≤ n := f.stopBits.count.cast_nonneg
  refine ⟨rearm, ?_, characterTime_timingOf p f T⟩
  calc rearmInstant (sampleIntervalAt T 1) t.schedLen
      = (1 + b + (2 * n - 1) / 4) * T := rearm
    _ < (1 + b + n) * T := mul_lt_mul_of_pos_right (by linarith) hT

end Sys2Proof.Machine
end
